-- ==== Sys2Proof/Word.lean ====
section
/-! DEFINITION. The two word types of the core: bytes (the eight 8-bit registers, the memory cells,
opcodes) and 16-bit words (SP, PC, pair values, addresses). 00_scope.md R6, R8. -/

namespace Sys2Proof

/-- An 8-bit value (R6). Its arithmetic wraps modulo 2^8 (R8). -/
abbrev Byte := BitVec 8

/-- A 16-bit value: SP, PC, the value of a register pair, a memory address (R6). Its arithmetic
wraps modulo 2^16 (R8). -/
abbrev Word := BitVec 16

end Sys2Proof
end

