-- ==== Sys2Proof/Syntax.lean ====
section
/-! DEFINITION. The abstract syntax: the operand tables of 30_encoding.md R64 and the instructions of
the specified set S, one constructor for each row of spec/opcode_table.json (R62, R68). An operand
byte or word is a bit vector of exactly the width the encoding gives it (R61, R65), so every term is
an instruction the encoding can write down. -/

namespace Sys2Proof

/-- The register rows of the table r8 (R64): index 6 is the memory byte (HL) and no register. -/
inductive Reg8 where
  | b | c | d | e | h | l | a
deriving DecidableEq, Repr

/-- The table rp (R64): the three pairs and SP. -/
inductive Reg16 where
  | bc | de | hl | sp
deriving DecidableEq, Repr

/-- The table cc (R64). -/
inductive Cond where
  | nz | z | nc | c
deriving DecidableEq, Repr

/-- The instructions of S. `n` is a d8, `nn` a d16 or a16, `e` the r8 displacement byte (R14, R65). -/
inductive Instr where
  /-- NOP: 0x00 -/
  | nop
  /-- LD BC,d16: 0x01 -/
  | ldBCd16 (nn : Word)
  /-- INC BC: 0x03 -/
  | incBC
  /-- INC B: 0x04 -/
  | incB
  /-- DEC B: 0x05 -/
  | decB
  /-- LD B,d8: 0x06 -/
  | ldBd8 (n : Byte)
  /-- RLCA: 0x07 -/
  | rlca
  /-- ADD HL,BC: 0x09 -/
  | addHLBC
  /-- DEC BC: 0x0B -/
  | decBC
  /-- INC C: 0x0C -/
  | incC
  /-- DEC C: 0x0D -/
  | decC
  /-- LD C,d8: 0x0E -/
  | ldCd8 (n : Byte)
  /-- LD DE,d16: 0x11 -/
  | ldDEd16 (nn : Word)
  /-- INC DE: 0x13 -/
  | incDE
  /-- INC D: 0x14 -/
  | incD
  /-- DEC D: 0x15 -/
  | decD
  /-- LD D,d8: 0x16 -/
  | ldDd8 (n : Byte)
  /-- JR r8: 0x18 -/
  | jr (e : Byte)
  /-- ADD HL,DE: 0x19 -/
  | addHLDE
  /-- DEC DE: 0x1B -/
  | decDE
  /-- INC E: 0x1C -/
  | incE
  /-- DEC E: 0x1D -/
  | decE
  /-- LD E,d8: 0x1E -/
  | ldEd8 (n : Byte)
  /-- RRA: 0x1F -/
  | rra
  /-- JR NZ,r8: 0x20 -/
  | jrNZ (e : Byte)
  /-- LD HL,d16: 0x21 -/
  | ldHLd16 (nn : Word)
  /-- INC HL: 0x23 -/
  | incHL
  /-- INC H: 0x24 -/
  | incH
  /-- DEC H: 0x25 -/
  | decH
  /-- LD H,d8: 0x26 -/
  | ldHd8 (n : Byte)
  /-- JR Z,r8: 0x28 -/
  | jrZ (e : Byte)
  /-- ADD HL,HL: 0x29 -/
  | addHLHL
  /-- DEC HL: 0x2B -/
  | decHL
  /-- INC L: 0x2C -/
  | incL
  /-- DEC L: 0x2D -/
  | decL
  /-- LD L,d8: 0x2E -/
  | ldLd8 (n : Byte)
  /-- JR NC,r8: 0x30 -/
  | jrNC (e : Byte)
  /-- LD SP,d16: 0x31 -/
  | ldSPd16 (nn : Word)
  /-- LD (HL-),A: 0x32 -/
  | ldAtHLDecA
  /-- INC SP: 0x33 -/
  | incSP
  /-- INC (HL): 0x34 -/
  | incAtHL
  /-- DEC (HL): 0x35 -/
  | decAtHL
  /-- LD (HL),d8: 0x36 -/
  | ldAtHLd8 (n : Byte)
  /-- JR C,r8: 0x38 -/
  | jrC (e : Byte)
  /-- ADD HL,SP: 0x39 -/
  | addHLSP
  /-- DEC SP: 0x3B -/
  | decSP
  /-- INC A: 0x3C -/
  | incA
  /-- DEC A: 0x3D -/
  | decA
  /-- LD A,d8: 0x3E -/
  | ldAd8 (n : Byte)
  /-- ADD A,B: 0x80 -/
  | addAB
  /-- ADD A,C: 0x81 -/
  | addAC
  /-- ADD A,D: 0x82 -/
  | addAD
  /-- ADD A,E: 0x83 -/
  | addAE
  /-- ADD A,H: 0x84 -/
  | addAH
  /-- ADD A,L: 0x85 -/
  | addAL
  /-- ADD A,(HL): 0x86 -/
  | addAAtHL
  /-- ADD A,A: 0x87 -/
  | addAA
  /-- SUB B: 0x90 -/
  | subB
  /-- SUB C: 0x91 -/
  | subC
  /-- SUB D: 0x92 -/
  | subD
  /-- SUB E: 0x93 -/
  | subE
  /-- SUB H: 0x94 -/
  | subH
  /-- SUB L: 0x95 -/
  | subL
  /-- SUB (HL): 0x96 -/
  | subAtHL
  /-- SUB A: 0x97 -/
  | subA
  /-- XOR A: 0xAF -/
  | xorA
  /-- OR B: 0xB0 -/
  | orB
  /-- OR C: 0xB1 -/
  | orC
  /-- OR D: 0xB2 -/
  | orD
  /-- OR E: 0xB3 -/
  | orE
  /-- OR H: 0xB4 -/
  | orH
  /-- OR L: 0xB5 -/
  | orL
  /-- OR (HL): 0xB6 -/
  | orAtHL
  /-- OR A: 0xB7 -/
  | orA
  /-- CP B: 0xB8 -/
  | cpB
  /-- CP C: 0xB9 -/
  | cpC
  /-- CP D: 0xBA -/
  | cpD
  /-- CP E: 0xBB -/
  | cpE
  /-- CP H: 0xBC -/
  | cpH
  /-- CP L: 0xBD -/
  | cpL
  /-- CP (HL): 0xBE -/
  | cpAtHL
  /-- CP A: 0xBF -/
  | cpA
  /-- JP NZ,a16: 0xC2 -/
  | jpNZ (nn : Word)
  /-- JP a16: 0xC3 -/
  | jp (nn : Word)
  /-- ADD A,d8: 0xC6 -/
  | addAd8 (n : Byte)
  /-- JP Z,a16: 0xCA -/
  | jpZ (nn : Word)
  /-- JP NC,a16: 0xD2 -/
  | jpNC (nn : Word)
  /-- SUB d8: 0xD6 -/
  | subd8 (n : Byte)
  /-- JP C,a16: 0xDA -/
  | jpC (nn : Word)
  /-- OR d8: 0xF6 -/
  | ord8 (n : Byte)
  /-- CP d8: 0xFE -/
  | cpd8 (n : Byte)
deriving DecidableEq, Repr

end Sys2Proof
end

