-- ==== Sys2Proof/Decode.lean ====
section
/-! DEFINITION. From bytes to an instruction and back. The decoder follows the fields of the opcode
byte (30_encoding.md R63, R72) and the operand assembly of R65; the encoder is written from the map of
R68 and the formats of R61. The opcode values and the fields are PRESUMED by the spec itself, but for
0x01 and 0x3E (log 2). -/

namespace Sys2Proof

/-! ### Bytes and words (00_scope.md R8) -/

/-- `hi ++ lo`, the word of two bytes (R8, R65). -/
def wordOfBytes (hi lo : Byte) : Word := hi ++ lo

/-- v[15:8]. -/
def highByte (v : Word) : Byte := v.extractLsb' 8 8

/-- v[7:0]. -/
def lowByte (v : Word) : Byte := v.extractLsb' 0 8

/-! ### The opcode byte -/

/-- A row of the opcode map: the instruction's format (R61) and what its operand bytes make of it. -/
inductive OpcodeRow where
  | f1 (i : Instr)
  | f2 (make : Byte → Instr)
  | f3 (make : Word → Instr)

/-- How many operand bytes follow the opcode (R61). -/
def OpcodeRow.operandCount : OpcodeRow → Nat
  | .f1 _ => 0
  | .f2 _ => 1
  | .f3 _ => 2

/-- Field x = op[7:6] as an unsigned number (R8, R63); the other fields likewise. -/
def fieldX (op : Byte) : Nat := op.toNat / 64

/-- Field y = op[5:3] (R63). -/
def fieldY (op : Byte) : Nat := op.toNat / 8 % 8

/-- Field z = op[2:0] (R63). -/
def fieldZ (op : Byte) : Nat := op.toNat % 8

/-- Field p = op[5:4] (R63). -/
def fieldP (op : Byte) : Nat := op.toNat / 16 % 4

/-- Field q = op[3] (R63). -/
def fieldQ (op : Byte) : Nat := op.toNat / 8 % 2

/-- x = 0, z = 0, by y: NOP, JR r8, JR cc[y-4],r8 (R72). -/
def rowX0Z0 : Nat → Option OpcodeRow
  | 0 => some (.f1 .nop)
  | 3 => some (.f2 .jr)
  | 4 => some (.f2 .jrNZ)
  | 5 => some (.f2 .jrZ)
  | 6 => some (.f2 .jrNC)
  | 7 => some (.f2 .jrC)
  | _ => none

/-- x = 0, z = 1, q = 0, by p: LD rp[p],d16 (R72). -/
def rowLdPair : Nat → Option OpcodeRow
  | 0 => some (.f3 .ldBCd16)
  | 1 => some (.f3 .ldDEd16)
  | 2 => some (.f3 .ldHLd16)
  | 3 => some (.f3 .ldSPd16)
  | _ => none

/-- x = 0, z = 1, q = 1, by p: ADD HL,rp[p] (R72). -/
def rowAddHL : Nat → Option OpcodeRow
  | 0 => some (.f1 .addHLBC)
  | 1 => some (.f1 .addHLDE)
  | 2 => some (.f1 .addHLHL)
  | 3 => some (.f1 .addHLSP)
  | _ => none

/-- x = 0, z = 3, q = 0, by p: INC rp[p] (R72). -/
def rowIncPair : Nat → Option OpcodeRow
  | 0 => some (.f1 .incBC)
  | 1 => some (.f1 .incDE)
  | 2 => some (.f1 .incHL)
  | 3 => some (.f1 .incSP)
  | _ => none

/-- x = 0, z = 3, q = 1, by p: DEC rp[p] (R72). -/
def rowDecPair : Nat → Option OpcodeRow
  | 0 => some (.f1 .decBC)
  | 1 => some (.f1 .decDE)
  | 2 => some (.f1 .decHL)
  | 3 => some (.f1 .decSP)
  | _ => none

/-- x = 0, z = 4, by y: INC r8[y] (R72). -/
def rowInc : Nat → Option OpcodeRow
  | 0 => some (.f1 .incB)
  | 1 => some (.f1 .incC)
  | 2 => some (.f1 .incD)
  | 3 => some (.f1 .incE)
  | 4 => some (.f1 .incH)
  | 5 => some (.f1 .incL)
  | 6 => some (.f1 .incAtHL)
  | 7 => some (.f1 .incA)
  | _ => none

/-- x = 0, z = 5, by y: DEC r8[y] (R72). -/
def rowDec : Nat → Option OpcodeRow
  | 0 => some (.f1 .decB)
  | 1 => some (.f1 .decC)
  | 2 => some (.f1 .decD)
  | 3 => some (.f1 .decE)
  | 4 => some (.f1 .decH)
  | 5 => some (.f1 .decL)
  | 6 => some (.f1 .decAtHL)
  | 7 => some (.f1 .decA)
  | _ => none

/-- x = 0, z = 6, by y: LD r8[y],d8 (R72). -/
def rowLd : Nat → Option OpcodeRow
  | 0 => some (.f2 .ldBd8)
  | 1 => some (.f2 .ldCd8)
  | 2 => some (.f2 .ldDd8)
  | 3 => some (.f2 .ldEd8)
  | 4 => some (.f2 .ldHd8)
  | 5 => some (.f2 .ldLd8)
  | 6 => some (.f2 .ldAtHLd8)
  | 7 => some (.f2 .ldAd8)
  | _ => none

/-- x = 0, z = 7, by y: RLCA, RRA (R72). -/
def rowRotate : Nat → Option OpcodeRow
  | 0 => some (.f1 .rlca)
  | 3 => some (.f1 .rra)
  | _ => none

/-- x = 2, y = 0, by z: ADD A,r8[z] (R72). -/
def rowAdd : Nat → Option OpcodeRow
  | 0 => some (.f1 .addAB)
  | 1 => some (.f1 .addAC)
  | 2 => some (.f1 .addAD)
  | 3 => some (.f1 .addAE)
  | 4 => some (.f1 .addAH)
  | 5 => some (.f1 .addAL)
  | 6 => some (.f1 .addAAtHL)
  | 7 => some (.f1 .addAA)
  | _ => none

/-- x = 2, y = 2, by z: SUB r8[z] (R72). -/
def rowSub : Nat → Option OpcodeRow
  | 0 => some (.f1 .subB)
  | 1 => some (.f1 .subC)
  | 2 => some (.f1 .subD)
  | 3 => some (.f1 .subE)
  | 4 => some (.f1 .subH)
  | 5 => some (.f1 .subL)
  | 6 => some (.f1 .subAtHL)
  | 7 => some (.f1 .subA)
  | _ => none

/-- x = 2, y = 6, by z: OR r8[z] (R72). -/
def rowOr : Nat → Option OpcodeRow
  | 0 => some (.f1 .orB)
  | 1 => some (.f1 .orC)
  | 2 => some (.f1 .orD)
  | 3 => some (.f1 .orE)
  | 4 => some (.f1 .orH)
  | 5 => some (.f1 .orL)
  | 6 => some (.f1 .orAtHL)
  | 7 => some (.f1 .orA)
  | _ => none

/-- x = 2, y = 7, by z: CP r8[z] (R72). -/
def rowCp : Nat → Option OpcodeRow
  | 0 => some (.f1 .cpB)
  | 1 => some (.f1 .cpC)
  | 2 => some (.f1 .cpD)
  | 3 => some (.f1 .cpE)
  | 4 => some (.f1 .cpH)
  | 5 => some (.f1 .cpL)
  | 6 => some (.f1 .cpAtHL)
  | 7 => some (.f1 .cpA)
  | _ => none

/-- x = 3, z = 2, by y: JP cc[y],a16 (R72). -/
def rowJp : Nat → Option OpcodeRow
  | 0 => some (.f3 .jpNZ)
  | 1 => some (.f3 .jpZ)
  | 2 => some (.f3 .jpNC)
  | 3 => some (.f3 .jpC)
  | _ => none

/-- x = 3, z = 6, by y: ADD A,d8, SUB d8, OR d8, CP d8 (R72). -/
def rowImmediate : Nat → Option OpcodeRow
  | 0 => some (.f2 .addAd8)
  | 2 => some (.f2 .subd8)
  | 6 => some (.f2 .ord8)
  | 7 => some (.f2 .cpd8)
  | _ => none

/-- Quadrant x = 0 of R72. -/
def rowX0 (op : Byte) : Option OpcodeRow :=
  match fieldZ op with
  | 0 => rowX0Z0 (fieldY op)
  | 1 => if fieldQ op = 0 then rowLdPair (fieldP op) else rowAddHL (fieldP op)
  | 2 => if op = 0x32 then some (.f1 .ldAtHLDecA) else none
  | 3 => if fieldQ op = 0 then rowIncPair (fieldP op) else rowDecPair (fieldP op)
  | 4 => rowInc (fieldY op)
  | 5 => rowDec (fieldY op)
  | 6 => rowLd (fieldY op)
  | _ => rowRotate (fieldY op)

/-- Quadrant x = 2 of R72. -/
def rowX2 (op : Byte) : Option OpcodeRow :=
  match fieldY op with
  | 0 => rowAdd (fieldZ op)
  | 2 => rowSub (fieldZ op)
  | 5 => if fieldZ op = 7 then some (.f1 .xorA) else none
  | 6 => rowOr (fieldZ op)
  | 7 => rowCp (fieldZ op)
  | _ => none

/-- Quadrant x = 3 of R72. -/
def rowX3 (op : Byte) : Option OpcodeRow :=
  match fieldZ op with
  | 2 => rowJp (fieldY op)
  | 3 => if op = 0xC3 then some (.f3 .jp) else none
  | 6 => rowImmediate (fieldY op)
  | _ => none

/-- decode(op) of R72: the opcode's row, or `none` when op is outside S. -/
def opcodeRow (op : Byte) : Option OpcodeRow :=
  match fieldX op with
  | 0 => rowX0 op
  | 2 => rowX2 op
  | 3 => rowX3 op
  | _ => none

/-- How many operand bytes an opcode takes, a function of the opcode alone (R61, R66); `none` outside S. -/
def operandCount (op : Byte) : Option Nat := (opcodeRow op).map OpcodeRow.operandCount

/-! ### Decoding -/

/-- Why a list of bytes is no instruction. -/
inductive DecodeError where
  /-- there is no opcode byte -/
  | noOpcode
  /-- the opcode is outside S (R67) -/
  | outsideSet (op : Byte)
  /-- the list ends before the opcode's last operand byte -/
  | operandMissing (op : Byte)
deriving DecidableEq, Repr

/-- Reads the operand bytes of a row and answers with the rest of the bytes (R65: an immediate word's
low byte comes first). -/
def decodeOperands (op : Byte) : OpcodeRow → List Byte → Except DecodeError (Instr × List Byte)
  | .f1 i, rest => .ok (i, rest)
  | .f2 make, n :: rest => .ok (make n, rest)
  | .f3 make, lo :: hi :: rest => .ok (make (wordOfBytes hi lo), rest)
  | _, _ => .error (.operandMissing op)

/-- The decoder, total on any bytes: the first instruction and the bytes after it, or the reason there
is none. -/
def decode : List Byte → Except DecodeError (Instr × List Byte)
  | [] => .error .noOpcode
  | op :: rest =>
    match opcodeRow op with
    | none => .error (.outsideSet op)
    | some row => decodeOperands op row rest

/-- The instruction the decoder reads from an instruction's bits numbered as spec/opcode_table.json
numbers them (bits 7..0 the opcode, 15..8 the second byte, 23..16 the third; bits from `nbits` up are 0). -/
def decodeTableWord (nbits w : Nat) : Option Instr :=
  let v := w % 2 ^ nbits
  match decode [BitVec.ofNat 8 v, BitVec.ofNat 8 (v / 2 ^ 8), BitVec.ofNat 8 (v / 2 ^ 16)] with
  | .ok (i, _) => some i
  | .error _ => none

/-! ### Encoding -/

/-- The opcode byte of an instruction (the map of R68). -/
def opcodeOf : Instr → Byte
  | .nop => 0x00
  | .ldBCd16 _ => 0x01
  | .incBC => 0x03
  | .incB => 0x04
  | .decB => 0x05
  | .ldBd8 _ => 0x06
  | .rlca => 0x07
  | .addHLBC => 0x09
  | .decBC => 0x0B
  | .incC => 0x0C
  | .decC => 0x0D
  | .ldCd8 _ => 0x0E
  | .ldDEd16 _ => 0x11
  | .incDE => 0x13
  | .incD => 0x14
  | .decD => 0x15
  | .ldDd8 _ => 0x16
  | .jr _ => 0x18
  | .addHLDE => 0x19
  | .decDE => 0x1B
  | .incE => 0x1C
  | .decE => 0x1D
  | .ldEd8 _ => 0x1E
  | .rra => 0x1F
  | .jrNZ _ => 0x20
  | .ldHLd16 _ => 0x21
  | .incHL => 0x23
  | .incH => 0x24
  | .decH => 0x25
  | .ldHd8 _ => 0x26
  | .jrZ _ => 0x28
  | .addHLHL => 0x29
  | .decHL => 0x2B
  | .incL => 0x2C
  | .decL => 0x2D
  | .ldLd8 _ => 0x2E
  | .jrNC _ => 0x30
  | .ldSPd16 _ => 0x31
  | .ldAtHLDecA => 0x32
  | .incSP => 0x33
  | .incAtHL => 0x34
  | .decAtHL => 0x35
  | .ldAtHLd8 _ => 0x36
  | .jrC _ => 0x38
  | .addHLSP => 0x39
  | .decSP => 0x3B
  | .incA => 0x3C
  | .decA => 0x3D
  | .ldAd8 _ => 0x3E
  | .addAB => 0x80
  | .addAC => 0x81
  | .addAD => 0x82
  | .addAE => 0x83
  | .addAH => 0x84
  | .addAL => 0x85
  | .addAAtHL => 0x86
  | .addAA => 0x87
  | .subB => 0x90
  | .subC => 0x91
  | .subD => 0x92
  | .subE => 0x93
  | .subH => 0x94
  | .subL => 0x95
  | .subAtHL => 0x96
  | .subA => 0x97
  | .xorA => 0xAF
  | .orB => 0xB0
  | .orC => 0xB1
  | .orD => 0xB2
  | .orE => 0xB3
  | .orH => 0xB4
  | .orL => 0xB5
  | .orAtHL => 0xB6
  | .orA => 0xB7
  | .cpB => 0xB8
  | .cpC => 0xB9
  | .cpD => 0xBA
  | .cpE => 0xBB
  | .cpH => 0xBC
  | .cpL => 0xBD
  | .cpAtHL => 0xBE
  | .cpA => 0xBF
  | .jpNZ _ => 0xC2
  | .jp _ => 0xC3
  | .addAd8 _ => 0xC6
  | .jpZ _ => 0xCA
  | .jpNC _ => 0xD2
  | .subd8 _ => 0xD6
  | .jpC _ => 0xDA
  | .ord8 _ => 0xF6
  | .cpd8 _ => 0xFE

/-- The bytes of an immediate word, low byte first (R61, R65). -/
def wordOperand (nn : Word) : List Byte := [lowByte nn, highByte nn]

/-- The operand bytes of an instruction (R61). -/
def operandsOf : Instr → List Byte
  | .ldBCd16 nn => wordOperand nn
  | .ldBd8 n => [n]
  | .ldCd8 n => [n]
  | .ldDEd16 nn => wordOperand nn
  | .ldDd8 n => [n]
  | .jr e => [e]
  | .ldEd8 n => [n]
  | .jrNZ e => [e]
  | .ldHLd16 nn => wordOperand nn
  | .ldHd8 n => [n]
  | .jrZ e => [e]
  | .ldLd8 n => [n]
  | .jrNC e => [e]
  | .ldSPd16 nn => wordOperand nn
  | .ldAtHLd8 n => [n]
  | .jrC e => [e]
  | .ldAd8 n => [n]
  | .jpNZ nn => wordOperand nn
  | .jp nn => wordOperand nn
  | .addAd8 n => [n]
  | .jpZ nn => wordOperand nn
  | .jpNC nn => wordOperand nn
  | .subd8 n => [n]
  | .jpC nn => wordOperand nn
  | .ord8 n => [n]
  | .cpd8 n => [n]
  | .nop | .incBC | .incB | .decB | .rlca | .addHLBC | .decBC | .incC | .decC | .incDE | .incD
  | .decD | .addHLDE | .decDE | .incE | .decE | .rra | .incHL | .incH | .decH | .addHLHL | .decHL
  | .incL | .decL | .ldAtHLDecA | .incSP | .incAtHL | .decAtHL | .addHLSP | .decSP | .incA
  | .decA | .addAB | .addAC | .addAD | .addAE | .addAH | .addAL | .addAAtHL | .addAA | .subB
  | .subC | .subD | .subE | .subH | .subL | .subAtHL | .subA | .xorA | .orB | .orC | .orD | .orE
  | .orH | .orL | .orAtHL | .orA | .cpB | .cpC | .cpD | .cpE | .cpH | .cpL | .cpAtHL | .cpA => []

/-- The bytes of an instruction, at increasing addresses (R61). -/
def encode (i : Instr) : List Byte := opcodeOf i :: operandsOf i

end Sys2Proof
end

