-- ==== Sys2Proof/Config.lean ====
section
/-! DEFINITION. The parameters of 00_scope.md R7 as plain data; their reference values and the
look-ups stand in Machine/Tables.lean. The machine carries one Config in its state, so that a claim
about every state is a claim about every value of the parameters (log 1). The fourth parameter, LOADER_IMAGE, is an argument of `launch`
(Machine/Driver.lean). No value of this core is free (93_implementation_defined.md), so nothing here
is opaque. -/

namespace Sys2Proof

/-- An entry of CYCLE_COST (R7, R73): one count, or for a conditional jump the not-taken and the
taken count (R182). -/
inductive CycleCost where
  | fixed (cycles : Nat)
  | branch (notTaken taken : Nat)
deriving DecidableEq, Repr

/-- The parameters of R7. -/
structure Config where
  /-- IMPLEMENTED: the opcodes present in the dispatcher's table (R62, R71). -/
  implemented : List Byte
  /-- CYCLE_COST: the first row of an opcode is its entry (R180). -/
  cycleCost : List (Byte × CycleCost)
  /-- FORBIDDEN_READS_FAULT: whether a read of a forbidden window faults (R48). -/
  forbiddenReadsFault : Bool
deriving DecidableEq, Repr

end Sys2Proof
end

