-- ==== Sys2Proof/Machine/Tables.lean ====
section
/-! DEFINITION. The specified set S, the reference values of the parameters of R7 and their look-ups:
30_encoding.md R62, R68, 70_reset_and_hazards.md R180, 92_eei_decisions.md D1, D6, D10. -/

namespace Sys2Proof

/-- Opcodes 0x00 to 0x3F of the map of S (30_encoding.md R68). -/
def specifiedSetLow : List Byte :=
  [0x00, 0x01, 0x03, 0x04, 0x05, 0x06, 0x07, 0x09, 0x0B, 0x0C, 0x0D, 0x0E] ++
  [0x11, 0x13, 0x14, 0x15, 0x16, 0x18, 0x19, 0x1B, 0x1C, 0x1D, 0x1E, 0x1F] ++
  [0x20, 0x21, 0x23, 0x24, 0x25, 0x26, 0x28, 0x29, 0x2B, 0x2C, 0x2D, 0x2E] ++
  [0x30, 0x31, 0x32, 0x33, 0x34, 0x35, 0x36, 0x38, 0x39, 0x3B, 0x3C, 0x3D, 0x3E]

/-- Opcodes 0x80 to 0xFF of the map of S (30_encoding.md R68). -/
def specifiedSetHigh : List Byte :=
  [0x80, 0x81, 0x82, 0x83, 0x84, 0x85, 0x86, 0x87] ++
  [0x90, 0x91, 0x92, 0x93, 0x94, 0x95, 0x96, 0x97] ++
  [0xAF] ++
  [0xB0, 0xB1, 0xB2, 0xB3, 0xB4, 0xB5, 0xB6, 0xB7] ++
  [0xB8, 0xB9, 0xBA, 0xBB, 0xBC, 0xBD, 0xBE, 0xBF] ++
  [0xC2, 0xC3, 0xC6, 0xCA, 0xD2, 0xD6, 0xDA, 0xF6, 0xFE]

/-- S, the specified set of 91 opcodes (30_encoding.md R62, R68). -/
def specifiedSet : List Byte := specifiedSetLow ++ specifiedSetHigh

/-- The opcodes of the conditional jumps, whose cost depends on the outcome (45_control.md R141, R143). -/
def conditionalJumpOpcodes : List Byte := [0x20, 0x28, 0x30, 0x38, 0xC2, 0xCA, 0xD2, 0xDA]

/-- The same cost for a group of opcodes: one line of the table of R180. -/
def costRows (opcodes : List Byte) (cost : CycleCost) : List (Byte × CycleCost) :=
  opcodes.map fun op => (op, cost)

/-- The reference value of CYCLE_COST (70_reset_and_hazards.md R180), a line of its table a line here.
PRESUMED: only 0x01 = 3 is the source's, the rest is general knowledge in the spec itself (log 3). -/
def Config.referenceCycleCost : List (Byte × CycleCost) :=
  costRows [0x00] (.fixed 1) ++
  costRows [0x01, 0x11, 0x21, 0x31] (.fixed 3) ++
  costRows [0x06, 0x0E, 0x16, 0x1E, 0x26, 0x2E, 0x3E] (.fixed 2) ++
  costRows [0x36] (.fixed 3) ++
  costRows [0x32] (.fixed 2) ++
  costRows [0x04, 0x0C, 0x14, 0x1C, 0x24, 0x2C, 0x3C] (.fixed 1) ++
  costRows [0x05, 0x0D, 0x15, 0x1D, 0x25, 0x2D, 0x3D] (.fixed 1) ++
  costRows [0x34, 0x35] (.fixed 3) ++
  costRows [0x03, 0x13, 0x23, 0x33, 0x0B, 0x1B, 0x2B, 0x3B] (.fixed 2) ++
  costRows [0x09, 0x19, 0x29, 0x39] (.fixed 2) ++
  costRows [0x80, 0x81, 0x82, 0x83, 0x84, 0x85, 0x87] (.fixed 1) ++
  costRows [0x90, 0x91, 0x92, 0x93, 0x94, 0x95, 0x97] (.fixed 1) ++
  costRows [0xB0, 0xB1, 0xB2, 0xB3, 0xB4, 0xB5, 0xB7] (.fixed 1) ++
  costRows [0xB8, 0xB9, 0xBA, 0xBB, 0xBC, 0xBD, 0xBF] (.fixed 1) ++
  costRows [0x86, 0x96, 0xB6, 0xBE] (.fixed 2) ++
  costRows [0xC6, 0xD6, 0xF6, 0xFE] (.fixed 2) ++
  costRows [0xAF] (.fixed 1) ++
  costRows [0x07, 0x1F] (.fixed 1) ++
  costRows [0x18] (.fixed 3) ++
  costRows [0x20, 0x28, 0x30, 0x38] (.branch 2 3) ++
  costRows [0xC3] (.fixed 4) ++
  costRows [0xC2, 0xCA, 0xD2, 0xDA] (.branch 3 4)

/-- IMPLEMENTED_REF = S without 0x3E (92_eei_decisions.md D1). -/
def Config.referenceImplemented : List Byte := specifiedSet.filter (· != 0x3E)

/-- The reference values of the parameters (R7, D1, D6, D10). -/
def Config.reference : Config :=
  { implemented := Config.referenceImplemented
    cycleCost := Config.referenceCycleCost
    forbiddenReadsFault := true }

/-- The first cost row of an opcode. -/
def lookupCost (op : Byte) : List (Byte × CycleCost) → Option CycleCost
  | [] => none
  | (k, cost) :: rows => if k = op then some cost else lookupCost op rows

/-- CYCLES(op, taken) of R12. DESIGN CHOICE: an opcode without a row costs 1 (log 3); a legal
configuration has a row for every member of S. -/
def Config.branchCycles (cfg : Config) (op : Byte) (taken : Bool) : Nat :=
  match lookupCost op cfg.cycleCost with
  | none => 1
  | some (.fixed n) => n
  | some (.branch notTaken whenTaken) => if taken then whenTaken else notTaken

/-- CYCLES(op) of R12, for an instruction whose cost has no outcome. -/
def Config.cycles (cfg : Config) (op : Byte) : Nat := cfg.branchCycles op false

end Sys2Proof
end

