-- ==== Sys2Proof/Machine/State.lean ====
section
/-! DEFINITION. The state of the machine as plain data: the register file (10_state.md R20), the memory
(20_memory.md R40), the run status (R33); and two fields of the model's own, the parameters of R7 and
what the last step returned. R31: the core has no other state. -/

namespace Sys2Proof.Machine

/-- The kind of a memory access in a fault's information (20_memory.md R50). -/
inductive AccessKind where
  /-- a data read, or the fetch of an opcode or operand byte -/
  | read
  /-- a data write -/
  | write
deriving DecidableEq, Repr

/-- The three fault kinds of 60_exceptions.md R150. -/
inductive Fault where
  /-- Raised by `step` when the opcode byte is not in the table, with that byte and the address it was
  fetched from (R151). Safe: the spec names this fault. -/
  | unsupportedOpcode (opcode : Byte) (address : Word)
  /-- Raised by `step`, by a meaning or by a host access, by the byte access that touches a forbidden
  window, with the byte's address and the kind of access (R152). Safe: the spec names this fault. -/
  | forbiddenMemoryAccess (address : Word) (kind : AccessKind)
  /-- Raised by `launch` alone, when the cartridge-type byte is not 0x00 (R153, R176). Safe: the spec
  names this fault. -/
  | unsupportedCartridge
deriving DecidableEq, Repr

/-- Why a step has no meaning. -/
inductive Refusal where
  /-- Raised by `exec` for an instruction without a meaning. Safe; no arm of `exec` raises it. -/
  | notModelled (mnemonic : String)
  /-- Raised by `step` when the run status is `Faulted(f)`: no step is defined from it (10_state.md R33,
  60_exceptions.md R158). Safe: the core stays stopped (log 6). -/
  | coreStopped (f : Fault)
deriving DecidableEq, Repr

/-- The run status (10_state.md R33). -/
inductive RunStatus where
  | running
  | faulted (f : Fault)
deriving DecidableEq, Repr

/-- The memory array (20_memory.md R40): the bytes that are not 0x00, by rising address. An address
that is not listed holds 0x00, as the zero-filled array of R55 does (log 14). -/
abbrev Memory := List Host.Cell

/-- The machine. -/
structure State where
  /-- accumulator (R20) -/
  a : Byte
  /-- flag byte (R20, R25) -/
  f : Byte
  b : Byte
  c : Byte
  d : Byte
  e : Byte
  h : Byte
  l : Byte
  /-- stack pointer (R20, R29) -/
  sp : Word
  /-- program counter (R20, R30) -/
  pc : Word
  /-- the 65536-byte array (R40) -/
  mem : Memory
  /-- the run status (R33) -/
  status : RunStatus
  /-- MODEL'S OWN: the parameters of R7; no step writes them (log 1) -/
  cfg : Config
  /-- MODEL'S OWN: the cycle count the last call of `step` returned (R73); `none` before the first
  step and after a faulting one (log 4) -/
  cyclesReturned : Option Nat
deriving DecidableEq, Repr

/-- Power-on (10_state.md R34, 20_memory.md R55, 70_reset_and_hazards.md R170 to R172), before a loader
has filled memory, with the reference values of the parameters. -/
def State.reset : State :=
  { a := 0x01, f := 0x80, b := 0x00, c := 0x13, d := 0x00, e := 0xD8, h := 0x01, l := 0x4D
    sp := 0xFFFE
    pc := 0x0100
    mem := []
    status := .running
    cfg := Config.reference
    cyclesReturned := none }

end Sys2Proof.Machine
end

