-- ==== Sys2Proof/Machine/Ops.lean ====
section
/-! DEFINITION. The shared operations: the memory array, the bus with its access checks (20_memory.md),
the program counter, the end of a successful step and the taking of a fault (60_exceptions.md). -/

namespace Sys2Proof.Machine

/-! ### The memory array -/

/-- What an address that is not listed reads as (R55: zero-filled; log 14). -/
def Memory.unlisted : Byte := 0x00

/-- `mem[a]` (R43). -/
def Memory.byteAt : Memory → Nat → Byte
  | [], _ => Memory.unlisted
  | (k, v) :: rest, a => if k = a then v else Memory.byteAt rest a

/-- A listed cell, or none where the byte is what an unlisted address reads as. -/
def Memory.cell (a : Nat) (v : Byte) : Memory := if v = Memory.unlisted then [] else [(a, v)]

/-- `mem[a] <- v` (R43): no other byte changes. -/
def Memory.setByte : Memory → Nat → Byte → Memory
  | [], a, v => Memory.cell a v
  | (k, w) :: rest, a, v =>
    if k < a then (k, w) :: Memory.setByte rest a v
    else if k = a then Memory.cell a v ++ rest
    else Memory.cell a v ++ (k, w) :: rest

/-- The addresses rise strictly from `low`, stay inside the address space (R6, R40), and no entry equals
what an unlisted address reads as. -/
def Memory.wfFrom (low : Nat) : Memory → Bool
  | [] => true
  | (k, v) :: rest =>
    decide (low ≤ k) && decide (k < 0x10000) && v != Memory.unlisted && Memory.wfFrom (k + 1) rest

/-- The canonical form of a memory: equal arrays are equal lists. -/
def Memory.wf (m : Memory) : Bool := Memory.wfFrom 0 m

/-- The array whose bytes from address `start` upward are the given ones, and 0x00 elsewhere. -/
def Memory.fromBytes (start : Nat) : List Byte → Memory
  | [] => []
  | v :: rest => Memory.cell start v ++ Memory.fromBytes (start + 1) rest

/-! ### The bus (20_memory.md) -/

/-- The two forbidden windows (R46). -/
def forbidden (a : Word) : Bool :=
  (decide (0xE000 ≤ a.toNat) && decide (a.toNat ≤ 0xFDFF)) ||
  (decide (0xFEA0 ≤ a.toNat) && decide (a.toNat ≤ 0xFEFF))

/-- MemRead(a, 1): checked when FORBIDDEN_READS_FAULT, no side effect (R43, R48). -/
def busRead (s : State) (a : Word) : Except Fault Byte :=
  if s.cfg.forbiddenReadsFault && forbidden a then .error (.forbiddenMemoryAccess a .read)
  else .ok (s.mem.byteAt a.toNat)

/-- MemWrite(a, 1, v): always checked (R43, R47). -/
def busWrite (s : State) (a : Word) (v : Byte) : Except Fault State :=
  if forbidden a then .error (.forbiddenMemoryAccess a .write)
  else .ok { s with mem := s.mem.setByte a.toNat v }

/-- MemRead(a, 2): low byte at a, high byte at a + 1 mod 0x10000, checked in that order (R44, R45, R49). -/
def busReadWord (s : State) (a : Word) : Except Fault Word :=
  match busRead s a with
  | .error f => .error f
  | .ok lo =>
    match busRead s (a + 1) with
    | .error f => .error f
    | .ok hi => .ok (wordOfBytes hi lo)

/-- MemWrite(a, 2, v): the low byte to a, then the high byte to a + 1 mod 0x10000; a fault on either
writes neither (R44, R45, R49). -/
def busWriteWord (s : State) (a v : Word) : Except Fault State :=
  match busWrite s a (lowByte v) with
  | .error f => .error f
  | .ok t => busWrite t (a + 1) (highByte v)

/-! ### The program counter and the end of a step -/

/-- Moves pc past `n` bytes, modulo 2^16 (10_state.md R30). -/
def State.advance (s : State) (n : Nat) : State := { s with pc := s.pc + BitVec.ofNat 16 n }

/-- The step returns `Ok(n)` with n the cycle count; the status stays as it is (30_encoding.md R70, R73). -/
def returnCycles (n : Nat) (s : State) : Host.Outcome State Fault Refusal :=
  .next { s with cyclesReturned := some n }

/-- The end of an instruction that is no jump: pc is past the instruction's `length` bytes
(10_state.md R30) and the step returns CYCLES(op) (00_scope.md R12). -/
def retire (op : Byte) (length : Nat) (s : State) : Host.Outcome State Fault Refusal :=
  returnCycles (s.cfg.cycles op) (s.advance length)

/-! ### Taking a fault (60_exceptions.md)

A meaning that faults answers the fault alone, so that the registers and memory it had worked on are
gone and the state before the step stands: the restoring of R154. -/

/-- The state a faulting step leaves, given the state before it (R154, 10_state.md R33): every register,
pc included, and every memory byte as before; the run status becomes `Faulted(f)`. There is no vector,
no handler, no saved register and no changed mode (R157), and no instruction returns from a fault
(R158), so no operation beside this one undoes it. A faulting step returns no cycle count (R73; log 4, 5). -/
def State.takeFault (s : State) (f : Fault) : State :=
  { s with status := .faulted f, cyclesReturned := none }

/-- The index of a fault kind (R150). -/
def Fault.index : Fault → Nat
  | .unsupportedOpcode _ _ => 0
  | .forbiddenMemoryAccess _ _ => 1
  | .unsupportedCartridge => 2

end Sys2Proof.Machine
end

