-- ==== Sys2Proof/Machine/Flags.lean ====
section
/-! DEFINITION. The flag byte (10_state.md R25, R26), the ALU's pure functions with their carries
(40_alu.md R80 to R88) and the conditions (45_control.md R139). -/

namespace Sys2Proof.Machine

/-- The four flags (10_state.md R25). -/
inductive Flag where
  | z | n | h | c
deriving DecidableEq, Repr

/-- The bit of F that holds a flag (10_state.md R25). -/
def Flag.bit : Flag → Nat
  | .z => 7
  | .n => 6
  | .h => 5
  | .c => 4

/-- The byte with a flag's bit alone set. -/
def Flag.mask (fl : Flag) : Byte := 1#8 <<< fl.bit

/-- flag(f) (10_state.md R26). -/
def State.flag (s : State) (fl : Flag) : Bool := s.f.getLsbD fl.bit

/-- setflag(f, b): one bit of F is set or cleared, the other seven stay (10_state.md R26). -/
def State.setFlag (s : State) (fl : Flag) (b : Bool) : State :=
  { s with f := if b then s.f ||| fl.mask else s.f &&& ~~~ fl.mask }

/-- The four flags at once, each through setflag; the order is not observable (R26). -/
def State.setFlags (s : State) (z n h c : Bool) : State :=
  (((s.setFlag .z z).setFlag .n n).setFlag .h h).setFlag .c c

/-! ### The ALU (40_alu.md) -/

/-- A byte result with its half carry and its carry (R80). -/
structure Alu8 where
  result : Byte
  halfCarry : Bool
  carry : Bool
deriving DecidableEq, Repr

/-- A byte result with its zero and its half carry: what inc8 and dec8 give, which have no carry output
(R83, R84). -/
structure Step8 where
  result : Byte
  zero : Bool
  halfCarry : Bool
deriving DecidableEq, Repr

/-- A word result with its half carry and its carry (R80, R87). -/
structure Alu16 where
  result : Word
  halfCarry : Bool
  carry : Bool
deriving DecidableEq, Repr

/-- The low nibble as a number, `v & 0xF`. -/
def lowNibble (v : Byte) : Nat := (v &&& 0x0F).toNat

/-- add8 (R81): half carry out of bit 3, carry out of bit 7. -/
def add8 (a b : Byte) : Alu8 :=
  { result := a + b
    halfCarry := decide (lowNibble a + lowNibble b > 0xF)
    carry := decide (a.toNat + b.toNat > 0xFF) }

/-- sub8 (R82): half carry is the borrow from bit 4, carry the unsigned borrow. -/
def sub8 (a b : Byte) : Alu8 :=
  { result := a - b
    halfCarry := decide (lowNibble a < lowNibble b)
    carry := decide (a.toNat < b.toNat) }

/-- inc8 (R83): the result and the half carry of add8 with 1, no carry output. -/
def inc8 (n : Byte) : Step8 :=
  { result := (add8 n 1).result
    zero := (add8 n 1).result == 0
    halfCarry := (add8 n 1).halfCarry }

/-- dec8 (R84): the result and the half carry of sub8 with 1, no carry output. -/
def dec8 (n : Byte) : Step8 :=
  { result := (sub8 n 1).result
    zero := (sub8 n 1).result == 0
    halfCarry := (sub8 n 1).halfCarry }

/-- or8 (R85): half carry and carry always cleared. -/
def or8 (a b : Byte) : Alu8 := { result := a ||| b, halfCarry := false, carry := false }

/-- cp8 (R86): the zero, half-carry and carry of sub8, without its result. -/
def cp8 (a b : Byte) : Bool × Bool × Bool :=
  ((sub8 a b).result == 0, (sub8 a b).halfCarry, (sub8 a b).carry)

/-- add16_to_pair (R87): half carry out of bit 11, that is with mask 0xFFF (90_conflicts.md C1; log 11),
and carry out of bit 15. -/
def add16ToPair (pair n : Word) : Alu16 :=
  { result := pair + n
    halfCarry := decide ((pair &&& 0x0FFF).toNat + (n &&& 0x0FFF).toNat > 0xFFF)
    carry := decide (pair.toNat + n.toNat > 0xFFFF) }

/-! ### Flag writes shared by a family; the caller supplies N (R88) -/

/-- Z from the result, N, H and C as given (R88). -/
def State.setAluFlags (s : State) (r : Alu8) (n : Bool) : State :=
  s.setFlags (r.result == 0) n r.halfCarry r.carry

/-- Z and H from inc8 or dec8, N as given; C is left alone (R83, R84). -/
def State.setStepFlags (s : State) (r : Step8) (n : Bool) : State :=
  ((s.setFlag .z r.zero).setFlag .n n).setFlag .h r.halfCarry

/-- cond(cc) (45_control.md R139): reads F only. -/
def State.condition (s : State) : Cond → Bool
  | .nz => !s.flag .z
  | .z => s.flag .z
  | .nc => !s.flag .c
  | .c => s.flag .c

end Sys2Proof.Machine
end

