-- ==== Sys2Proof/Machine/Operands.lean ====
section
/-! DEFINITION. The operand forms: the registers and pairs (10_state.md R22, R23, 30_encoding.md R64),
the memory byte (HL), and the signed offset (40_alu.md R89). -/

namespace Sys2Proof.Machine

/-- x[r] (00_scope.md R9). -/
def State.reg (s : State) : Reg8 → Byte
  | .b => s.b
  | .c => s.c
  | .d => s.d
  | .e => s.e
  | .h => s.h
  | .l => s.l
  | .a => s.a

/-- x[r] <- v (00_scope.md R9). -/
def State.setReg (s : State) (r : Reg8) (v : Byte) : State :=
  match r with
  | .b => { s with b := v }
  | .c => { s with c := v }
  | .d => { s with d := v }
  | .e => { s with e := v }
  | .h => { s with h := v }
  | .l => { s with l := v }
  | .a => { s with a := v }

/-- readRP: a pair is its high register and then its low one (10_state.md R23, 30_encoding.md R64). -/
def State.pair (s : State) : Reg16 → Word
  | .bc => wordOfBytes s.b s.c
  | .de => wordOfBytes s.d s.e
  | .hl => wordOfBytes s.h s.l
  | .sp => s.sp

/-- writeRP: a write to a pair splits the value (10_state.md R23, 30_encoding.md R64). -/
def State.setPair (s : State) (p : Reg16) (v : Word) : State :=
  match p with
  | .bc => { s with b := highByte v, c := lowByte v }
  | .de => { s with d := highByte v, e := lowByte v }
  | .hl => { s with h := highByte v, l := lowByte v }
  | .sp => { s with sp := v }

/-- Reads the memory byte at address x[HL] (readR8(6), R64) and goes on with it, or faults. -/
def withByteAtHL (s : State) (k : Byte → Host.Outcome State Fault Refusal) :
    Host.Outcome State Fault Refusal :=
  match busRead s (s.pair .hl) with
  | .error f => .fault f
  | .ok v => k v

/-- Writes the memory byte at address x[HL] (writeR8(6, v), R64) and goes on with the new state, or faults. -/
def withStoreAtHL (s : State) (v : Byte) (k : State → Host.Outcome State Fault Refusal) :
    Host.Outcome State Fault Refusal :=
  match busWrite s (s.pair .hl) v with
  | .error f => .fault f
  | .ok t => k t

/-- add_signed(base16, e8): e8 is read in two's complement, the sum wraps at 16 bits (40_alu.md R89). -/
def addSigned (base : Word) (e : Byte) : Word := base + e.signExtend 16

end Sys2Proof.Machine
end

