-- ==== Sys2Proof/Machine/Arith.lean ====
section
/-! DEFINITION. 8-bit add, subtract, OR, compare and XOR A (42_arith8.md R104 to R116). -/

namespace Sys2Proof.Machine

/-- The effect of ADD A with source byte b (R104). -/
def addToA (b : Byte) (s : State) : State :=
  { s with a := (add8 s.a b).result }.setAluFlags (add8 s.a b) false

/-- The effect of SUB with source byte b (R107). -/
def subFromA (b : Byte) (s : State) : State :=
  { s with a := (sub8 s.a b).result }.setAluFlags (sub8 s.a b) true

/-- The effect of OR with source byte b (R110). -/
def orIntoA (b : Byte) (s : State) : State :=
  { s with a := (or8 s.a b).result }.setAluFlags (or8 s.a b) false

/-- The effect of CP with source byte b (R113): A is not written. -/
def compareWithA (b : Byte) (s : State) : State :=
  s.setFlags (cp8 s.a b).1 true (cp8 s.a b).2.1 (cp8 s.a b).2.2

/-! ### ADD A -/

/-- ADD A,B (R104). -/
def execAddAB (s : State) : Host.Outcome State Fault Refusal := retire 0x80 1 (addToA (s.reg .b) s)

/-- ADD A,C (R104). -/
def execAddAC (s : State) : Host.Outcome State Fault Refusal := retire 0x81 1 (addToA (s.reg .c) s)

/-- ADD A,D (R104). -/
def execAddAD (s : State) : Host.Outcome State Fault Refusal := retire 0x82 1 (addToA (s.reg .d) s)

/-- ADD A,E (R104). -/
def execAddAE (s : State) : Host.Outcome State Fault Refusal := retire 0x83 1 (addToA (s.reg .e) s)

/-- ADD A,H (R104). -/
def execAddAH (s : State) : Host.Outcome State Fault Refusal := retire 0x84 1 (addToA (s.reg .h) s)

/-- ADD A,L (R104). -/
def execAddAL (s : State) : Host.Outcome State Fault Refusal := retire 0x85 1 (addToA (s.reg .l) s)

/-- ADD A,A (R104). -/
def execAddAA (s : State) : Host.Outcome State Fault Refusal := retire 0x87 1 (addToA (s.reg .a) s)

/-- ADD A,(HL) (R105). -/
def execAddAAtHL (s : State) : Host.Outcome State Fault Refusal :=
  withByteAtHL s fun b => retire 0x86 1 (addToA b s)

/-- ADD A,d8 (R106). -/
def execAddAd8 (n : Byte) (s : State) : Host.Outcome State Fault Refusal := retire 0xC6 2 (addToA n s)

/-! ### SUB -/

/-- SUB B (R107). -/
def execSubB (s : State) : Host.Outcome State Fault Refusal := retire 0x90 1 (subFromA (s.reg .b) s)

/-- SUB C (R107). -/
def execSubC (s : State) : Host.Outcome State Fault Refusal := retire 0x91 1 (subFromA (s.reg .c) s)

/-- SUB D (R107). -/
def execSubD (s : State) : Host.Outcome State Fault Refusal := retire 0x92 1 (subFromA (s.reg .d) s)

/-- SUB E (R107). -/
def execSubE (s : State) : Host.Outcome State Fault Refusal := retire 0x93 1 (subFromA (s.reg .e) s)

/-- SUB H (R107). -/
def execSubH (s : State) : Host.Outcome State Fault Refusal := retire 0x94 1 (subFromA (s.reg .h) s)

/-- SUB L (R107). -/
def execSubL (s : State) : Host.Outcome State Fault Refusal := retire 0x95 1 (subFromA (s.reg .l) s)

/-- SUB A (R107). -/
def execSubA (s : State) : Host.Outcome State Fault Refusal := retire 0x97 1 (subFromA (s.reg .a) s)

/-- SUB (HL) (R108). -/
def execSubAtHL (s : State) : Host.Outcome State Fault Refusal :=
  withByteAtHL s fun b => retire 0x96 1 (subFromA b s)

/-- SUB d8 (R109). -/
def execSubd8 (n : Byte) (s : State) : Host.Outcome State Fault Refusal := retire 0xD6 2 (subFromA n s)

/-! ### OR -/

/-- OR B (R110). -/
def execOrB (s : State) : Host.Outcome State Fault Refusal := retire 0xB0 1 (orIntoA (s.reg .b) s)

/-- OR C (R110). -/
def execOrC (s : State) : Host.Outcome State Fault Refusal := retire 0xB1 1 (orIntoA (s.reg .c) s)

/-- OR D (R110). -/
def execOrD (s : State) : Host.Outcome State Fault Refusal := retire 0xB2 1 (orIntoA (s.reg .d) s)

/-- OR E (R110). -/
def execOrE (s : State) : Host.Outcome State Fault Refusal := retire 0xB3 1 (orIntoA (s.reg .e) s)

/-- OR H (R110). -/
def execOrH (s : State) : Host.Outcome State Fault Refusal := retire 0xB4 1 (orIntoA (s.reg .h) s)

/-- OR L (R110). -/
def execOrL (s : State) : Host.Outcome State Fault Refusal := retire 0xB5 1 (orIntoA (s.reg .l) s)

/-- OR A (R110). -/
def execOrA (s : State) : Host.Outcome State Fault Refusal := retire 0xB7 1 (orIntoA (s.reg .a) s)

/-- OR (HL) (R111). -/
def execOrAtHL (s : State) : Host.Outcome State Fault Refusal :=
  withByteAtHL s fun b => retire 0xB6 1 (orIntoA b s)

/-- OR d8 (R112). -/
def execOrd8 (n : Byte) (s : State) : Host.Outcome State Fault Refusal := retire 0xF6 2 (orIntoA n s)

/-! ### CP -/

/-- CP B (R113). -/
def execCpB (s : State) : Host.Outcome State Fault Refusal := retire 0xB8 1 (compareWithA (s.reg .b) s)

/-- CP C (R113). -/
def execCpC (s : State) : Host.Outcome State Fault Refusal := retire 0xB9 1 (compareWithA (s.reg .c) s)

/-- CP D (R113). -/
def execCpD (s : State) : Host.Outcome State Fault Refusal := retire 0xBA 1 (compareWithA (s.reg .d) s)

/-- CP E (R113). -/
def execCpE (s : State) : Host.Outcome State Fault Refusal := retire 0xBB 1 (compareWithA (s.reg .e) s)

/-- CP H (R113). -/
def execCpH (s : State) : Host.Outcome State Fault Refusal := retire 0xBC 1 (compareWithA (s.reg .h) s)

/-- CP L (R113). -/
def execCpL (s : State) : Host.Outcome State Fault Refusal := retire 0xBD 1 (compareWithA (s.reg .l) s)

/-- CP A (R113). -/
def execCpA (s : State) : Host.Outcome State Fault Refusal := retire 0xBF 1 (compareWithA (s.reg .a) s)

/-- CP (HL) (R114). -/
def execCpAtHL (s : State) : Host.Outcome State Fault Refusal :=
  withByteAtHL s fun b => retire 0xBE 1 (compareWithA b s)

/-- CP d8 (R115). -/
def execCpd8 (n : Byte) (s : State) : Host.Outcome State Fault Refusal := retire 0xFE 2 (compareWithA n s)

/-! ### XOR A -/

/-- XOR A (R116): a fixed result, not a general XOR. -/
def execXorA (s : State) : Host.Outcome State Fault Refusal :=
  retire 0xAF 1 ({ s with a := 0x00 }.setFlags true false false false)

end Sys2Proof.Machine
end

