-- ==== Sys2Proof/Machine/Arith16.lean ====
section
/-! DEFINITION. 16-bit arithmetic (43_arith16.md). -/

namespace Sys2Proof.Machine

/-- INC rr (R120): modulo 2^16, no flag (D12; log 13). -/
def incPair (op : Byte) (p : Reg16) (s : State) : Host.Outcome State Fault Refusal :=
  retire op 1 (s.setPair p (s.pair p + 1))

/-- DEC rr (R121): modulo 2^16, no flag (D12; log 13). -/
def decPair (op : Byte) (p : Reg16) (s : State) : Host.Outcome State Fault Refusal :=
  retire op 1 (s.setPair p (s.pair p - 1))

/-- ADD HL,rr (R122): both operands are read before HL is written; Z is left alone. -/
def addPairToHL (op : Byte) (p : Reg16) (s : State) : Host.Outcome State Fault Refusal :=
  let r := add16ToPair (s.pair .hl) (s.pair p)
  retire op 1 ((((s.setPair .hl r.result).setFlag .n false).setFlag .h r.halfCarry).setFlag .c r.carry)

/-- INC BC (R120). -/
def execIncBC (s : State) : Host.Outcome State Fault Refusal := incPair 0x03 .bc s

/-- INC DE (R120). -/
def execIncDE (s : State) : Host.Outcome State Fault Refusal := incPair 0x13 .de s

/-- INC HL (R120). -/
def execIncHL (s : State) : Host.Outcome State Fault Refusal := incPair 0x23 .hl s

/-- INC SP (R120). -/
def execIncSP (s : State) : Host.Outcome State Fault Refusal := incPair 0x33 .sp s

/-- DEC BC (R121). -/
def execDecBC (s : State) : Host.Outcome State Fault Refusal := decPair 0x0B .bc s

/-- DEC DE (R121). -/
def execDecDE (s : State) : Host.Outcome State Fault Refusal := decPair 0x1B .de s

/-- DEC HL (R121). -/
def execDecHL (s : State) : Host.Outcome State Fault Refusal := decPair 0x2B .hl s

/-- DEC SP (R121). -/
def execDecSP (s : State) : Host.Outcome State Fault Refusal := decPair 0x3B .sp s

/-- ADD HL,BC (R122). -/
def execAddHLBC (s : State) : Host.Outcome State Fault Refusal := addPairToHL 0x09 .bc s

/-- ADD HL,DE (R122). -/
def execAddHLDE (s : State) : Host.Outcome State Fault Refusal := addPairToHL 0x19 .de s

/-- ADD HL,HL (R122). -/
def execAddHLHL (s : State) : Host.Outcome State Fault Refusal := addPairToHL 0x29 .hl s

/-- ADD HL,SP (R122). -/
def execAddHLSP (s : State) : Host.Outcome State Fault Refusal := addPairToHL 0x39 .sp s

end Sys2Proof.Machine
end

