-- ==== Sys2Proof/Machine/Control.lean ====
section
/-! DEFINITION. Jumps (45_control.md). No flag is written. A jump never faults because of its target: the
next step's fetch does. -/

namespace Sys2Proof.Machine

/-- A jump whose operand bytes are fetched, taken or not, so that pc is past the instruction's `length`
bytes; `target` gets that advanced pc (R140, R141, R143). -/
def jumpWhen (op : Byte) (length : Nat) (taken : Bool) (target : Word → Word) (s : State) : Host.Outcome State Fault Refusal :=
  let t := s.advance length
  returnCycles (s.cfg.branchCycles op taken) (if taken then { t with pc := target t.pc } else t)

/-- JR r8 (R140): relative to the address right after the instruction. -/
def execJr (e : Byte) (s : State) : Host.Outcome State Fault Refusal :=
  let t := s.advance 2
  returnCycles (s.cfg.cycles 0x18) { t with pc := addSigned t.pc e }

/-- JP a16 (R142). -/
def execJp (nn : Word) (s : State) : Host.Outcome State Fault Refusal :=
  returnCycles (s.cfg.cycles 0xC3) { s with pc := nn }

/-- JR NZ,r8 (R141). -/
def execJrNZ (e : Byte) (s : State) : Host.Outcome State Fault Refusal :=
  jumpWhen 0x20 2 (s.condition .nz) (fun pc => addSigned pc e) s

/-- JR Z,r8 (R141). -/
def execJrZ (e : Byte) (s : State) : Host.Outcome State Fault Refusal :=
  jumpWhen 0x28 2 (s.condition .z) (fun pc => addSigned pc e) s

/-- JR NC,r8 (R141). -/
def execJrNC (e : Byte) (s : State) : Host.Outcome State Fault Refusal :=
  jumpWhen 0x30 2 (s.condition .nc) (fun pc => addSigned pc e) s

/-- JR C,r8 (R141). -/
def execJrC (e : Byte) (s : State) : Host.Outcome State Fault Refusal :=
  jumpWhen 0x38 2 (s.condition .c) (fun pc => addSigned pc e) s

/-- JP NZ,a16 (R143). -/
def execJpNZ (nn : Word) (s : State) : Host.Outcome State Fault Refusal :=
  jumpWhen 0xC2 3 (s.condition .nz) (fun _ => nn) s

/-- JP Z,a16 (R143). -/
def execJpZ (nn : Word) (s : State) : Host.Outcome State Fault Refusal :=
  jumpWhen 0xCA 3 (s.condition .z) (fun _ => nn) s

/-- JP NC,a16 (R143). -/
def execJpNC (nn : Word) (s : State) : Host.Outcome State Fault Refusal :=
  jumpWhen 0xD2 3 (s.condition .nc) (fun _ => nn) s

/-- JP C,a16 (R143). -/
def execJpC (nn : Word) (s : State) : Host.Outcome State Fault Refusal :=
  jumpWhen 0xDA 3 (s.condition .c) (fun _ => nn) s

end Sys2Proof.Machine
end

