-- ==== Sys2Proof/Machine/IncDec.lean ====
section
/-! DEFINITION. 8-bit increment and decrement (42_arith8.md R100 to R103). Z, N and H are written, C is
left alone. -/

namespace Sys2Proof.Machine

/-- INC r (R100). -/
def incReg (op : Byte) (r : Reg8) (s : State) : Host.Outcome State Fault Refusal :=
  retire op 1 ((s.setReg r (inc8 (s.reg r)).result).setStepFlags (inc8 (s.reg r)) false)

/-- DEC r (R102). -/
def decReg (op : Byte) (r : Reg8) (s : State) : Host.Outcome State Fault Refusal :=
  retire op 1 ((s.setReg r (dec8 (s.reg r)).result).setStepFlags (dec8 (s.reg r)) true)

/-- INC B (R100). -/
def execIncB (s : State) : Host.Outcome State Fault Refusal := incReg 0x04 .b s

/-- INC C (R100). -/
def execIncC (s : State) : Host.Outcome State Fault Refusal := incReg 0x0C .c s

/-- INC D (R100). -/
def execIncD (s : State) : Host.Outcome State Fault Refusal := incReg 0x14 .d s

/-- INC E (R100). -/
def execIncE (s : State) : Host.Outcome State Fault Refusal := incReg 0x1C .e s

/-- INC H (R100). -/
def execIncH (s : State) : Host.Outcome State Fault Refusal := incReg 0x24 .h s

/-- INC L (R100). -/
def execIncL (s : State) : Host.Outcome State Fault Refusal := incReg 0x2C .l s

/-- INC A (R100). -/
def execIncA (s : State) : Host.Outcome State Fault Refusal := incReg 0x3C .a s

/-- DEC B (R102). -/
def execDecB (s : State) : Host.Outcome State Fault Refusal := decReg 0x05 .b s

/-- DEC C (R102). -/
def execDecC (s : State) : Host.Outcome State Fault Refusal := decReg 0x0D .c s

/-- DEC D (R102). -/
def execDecD (s : State) : Host.Outcome State Fault Refusal := decReg 0x15 .d s

/-- DEC E (R102). -/
def execDecE (s : State) : Host.Outcome State Fault Refusal := decReg 0x1D .e s

/-- DEC H (R102). -/
def execDecH (s : State) : Host.Outcome State Fault Refusal := decReg 0x25 .h s

/-- DEC L (R102). -/
def execDecL (s : State) : Host.Outcome State Fault Refusal := decReg 0x2D .l s

/-- DEC A (R102). -/
def execDecA (s : State) : Host.Outcome State Fault Refusal := decReg 0x3D .a s

/-- INC (HL) (R101): the byte is read, then written at the same address, then the flags change. -/
def execIncAtHL (s : State) : Host.Outcome State Fault Refusal :=
  withByteAtHL s fun n =>
    withStoreAtHL s (inc8 n).result fun t => retire 0x34 1 (t.setStepFlags (inc8 n) false)

/-- DEC (HL) (R103). -/
def execDecAtHL (s : State) : Host.Outcome State Fault Refusal :=
  withByteAtHL s fun n =>
    withStoreAtHL s (dec8 n).result fun t => retire 0x35 1 (t.setStepFlags (dec8 n) true)

end Sys2Proof.Machine
end

