-- ==== Sys2Proof/Machine/Loads.lean ====
section
/-! DEFINITION. No-operation and loads (41_loads.md). No instruction of this file writes a flag
(D13; log 13). -/

namespace Sys2Proof.Machine

/-- NOP (R90). -/
def execNop (s : State) : Host.Outcome State Fault Refusal := retire 0x00 1 s

/-! ### LD rr,d16 (R91): the word goes straight to the pair, not through the ALU -/

/-- LD BC,d16 (R91). -/
def execLdBCd16 (nn : Word) (s : State) : Host.Outcome State Fault Refusal :=
  retire 0x01 3 (s.setPair .bc nn)

/-- LD DE,d16 (R91). -/
def execLdDEd16 (nn : Word) (s : State) : Host.Outcome State Fault Refusal :=
  retire 0x11 3 (s.setPair .de nn)

/-- LD HL,d16 (R91). -/
def execLdHLd16 (nn : Word) (s : State) : Host.Outcome State Fault Refusal :=
  retire 0x21 3 (s.setPair .hl nn)

/-- LD SP,d16 (R91). -/
def execLdSPd16 (nn : Word) (s : State) : Host.Outcome State Fault Refusal :=
  retire 0x31 3 (s.setPair .sp nn)

/-! ### LD r,d8 (R92) -/

/-- LD B,d8 (R92). -/
def execLdBd8 (n : Byte) (s : State) : Host.Outcome State Fault Refusal :=
  retire 0x06 2 (s.setReg .b n)

/-- LD C,d8 (R92). -/
def execLdCd8 (n : Byte) (s : State) : Host.Outcome State Fault Refusal :=
  retire 0x0E 2 (s.setReg .c n)

/-- LD D,d8 (R92). -/
def execLdDd8 (n : Byte) (s : State) : Host.Outcome State Fault Refusal :=
  retire 0x16 2 (s.setReg .d n)

/-- LD E,d8 (R92). -/
def execLdEd8 (n : Byte) (s : State) : Host.Outcome State Fault Refusal :=
  retire 0x1E 2 (s.setReg .e n)

/-- LD H,d8 (R92). -/
def execLdHd8 (n : Byte) (s : State) : Host.Outcome State Fault Refusal :=
  retire 0x26 2 (s.setReg .h n)

/-- LD L,d8 (R92). -/
def execLdLd8 (n : Byte) (s : State) : Host.Outcome State Fault Refusal :=
  retire 0x2E 2 (s.setReg .l n)

/-- LD A,d8 (R92). This core's table has no 0x3E, so `step` never comes here under it (R92). -/
def execLdAd8 (n : Byte) (s : State) : Host.Outcome State Fault Refusal :=
  retire 0x3E 2 (s.setReg .a n)

/-! ### Stores through HL -/

/-- LD (HL),d8 (R93). -/
def execLdAtHLd8 (n : Byte) (s : State) : Host.Outcome State Fault Refusal :=
  withStoreAtHL s n (retire 0x36 2)

/-- LD (HL-),A (R94): HL is decremented first and A is stored at the new HL (90_conflicts.md C7; log 10).
A fault leaves the old HL, since the fault alone is answered. -/
def execLdAtHLDecA (s : State) : Host.Outcome State Fault Refusal :=
  withStoreAtHL (s.setPair .hl (s.pair .hl - 1)) s.a (retire 0x32 1)

end Sys2Proof.Machine
end

