-- ==== Sys2Proof/Machine/Rotate.lean ====
section
/-! DEFINITION. Accumulator rotates (44_rotate.md). Z is cleared, not computed. -/

namespace Sys2Proof.Machine

/-- RLCA (R130): bit 7 goes to bit 0 and to C; the old C is not read. -/
def execRlca (s : State) : Host.Outcome State Fault Refusal :=
  retire 0x07 1
    ({ s with a := (s.a <<< 1) ||| (s.a >>> 7) }.setFlags false false false (s.a.getLsbD 7))

/-- The old C as bit 7 of a byte, `cin << 7` (R131). -/
def carryInBit7 (cin : Bool) : Byte := if cin then 0x80 else 0x00

/-- RRA (R131): the old C goes to bit 7, bit 0 goes to C. -/
def execRra (s : State) : Host.Outcome State Fault Refusal :=
  retire 0x1F 1
    ({ s with a := carryInBit7 (s.flag .c) ||| (s.a >>> 1) }.setFlags false false false (s.a.getLsbD 0))

end Sys2Proof.Machine
end

