-- ==== Sys2Proof/Machine/Fetch.lean ====
section
/-! DEFINITION. Fetching an instruction (00_scope.md R10, 30_encoding.md R65, R70): the opcode byte, the
look-up in the table, the operand bytes in address order, each read checked by the bus. The state
these functions pass along is working state: a step that faults leaves the state before it (R154). -/

namespace Sys2Proof.Machine

/-- Fetch8 (R10): the byte at pc, and pc past it. -/
def fetch8 (s : State) : Except Fault (Byte × State) :=
  match busRead s s.pc with
  | .error f => .error f
  | .ok v => .ok (v, s.advance 1)

/-- Fetches `n` operand bytes at rising addresses (R61, R65, R156). -/
def fetchOperands : Nat → State → Except Fault (List Byte)
  | 0, _ => .ok []
  | n + 1, s =>
    match fetch8 s with
    | .error f => .error f
    | .ok (v, t) =>
      match fetchOperands n t with
      | .error f => .error f
      | .ok rest => .ok (v :: rest)

/-- The look-up in the dispatcher's table (R70, R71): how many operand bytes the opcode's handler
fetches, or `none` when the table has no entry. DESIGN CHOICE: an opcode a table lists outside S has no
handler and counts as absent (R7 wants IMPLEMENTED ⊆ S; log 19). -/
def lookupHandler (cfg : Config) (op : Byte) : Option Nat :=
  if cfg.implemented.contains op then operandCount op else none

/-- The instruction at pc, or the first fault on the way to it (R70, R151, R156). -/
def fetchInstr (s : State) : Except Fault Instr :=
  match fetch8 s with
  | .error f => .error f
  | .ok (op, t) =>
    match lookupHandler s.cfg op with
    | none => .error (.unsupportedOpcode op s.pc)
    | some n =>
      match fetchOperands n t with
      | .error f => .error f
      | .ok operands =>
        match decode (op :: operands) with
        | .error _ => .error (.unsupportedOpcode op s.pc)
        | .ok (i, _) => .ok i

/-- Stores bytes straight into the array, as a loader does before the first step (70_reset_and_hazards.md
R174): no access check, addresses modulo 2^16. -/
def State.loadBytes (s : State) (a : Word) : List Byte → State
  | [] => s
  | v :: rest => State.loadBytes { s with mem := s.mem.setByte a.toNat v } (a + 1) rest

end Sys2Proof.Machine
end

