-- ==== Sys2Proof/Machine/Step.lean ====
section
/-! DEFINITION. One step (30_encoding.md R70). -/

namespace Sys2Proof.Machine

/-- One step: defined while the status is `Running` (R33, R70), it fetches the instruction at pc and runs
it. A fault answers alone; the state it leaves is `s.takeFault f` (Machine/Driver.lean, R154, R155). -/
def step (s : State) : Host.Outcome State Fault Refusal :=
  match s.status with
  | .faulted f => .refused (.coreStopped f)
  | .running =>
    match fetchInstr s with
    | .error f => .fault f
    | .ok i => exec i s

/-- `s` with one instruction's bytes, numbered as spec/opcode_table.json numbers its bits, in the three
bytes from pc on, where `step` fetches next. It stands for the loader's work (R174; log 15). -/
def State.withFetchWord (s : State) (nbits w : Nat) : State :=
  s.loadBytes s.pc
    [BitVec.ofNat 8 (w % 2 ^ nbits), BitVec.ofNat 8 (w % 2 ^ nbits / 2 ^ 8),
      BitVec.ofNat 8 (w % 2 ^ nbits / 2 ^ 16)]

end Sys2Proof.Machine
end

