-- ==== Sys2Proof/Machine/Driver.lean ====
section
/-! DEFINITION. The boundary of the core: what a call of `step` gives back to the driver and leaves in
the machine (30_encoding.md R70, 60_exceptions.md R155), the run (R177), the launch (R174, R176), the
host port (20_memory.md R60) and the diagnostic regions (R53). -/

namespace Sys2Proof.Machine

/-! ### A call of step as the driver sees it -/

/-- What a call of `step` returns (R70, R73, R155). -/
inductive StepReturn where
  /-- `Ok(n)`: the cycle count -/
  | ok (cycles : Nat)
  /-- `Fault(f)`: no cycle count -/
  | fault (f : Fault)
  /-- no step is defined: the core had stopped (R33) -/
  | undefined
deriving DecidableEq, Repr

/-- The machine after a call of `step`: a fault restores everything and sets the run status (R154); where
no step is defined the machine stays (R33). -/
def afterStep (s : State) : State :=
  match step s with
  | .next t => t
  | .fault f => s.takeFault f
  | .refused _ => s

/-- What a call of `step` returns to the driver. -/
def stepReturn (s : State) : StepReturn :=
  match step s with
  | .next t => .ok (t.cyclesReturned.getD 0)
  | .fault f => .fault f
  | .refused _ => .undefined

/-- The machine after the driver has called `step` `k` times (R177). -/
def afterSteps : Nat → State → State
  | 0, s => s
  | k + 1, s => afterSteps k (afterStep s)

/-! ### Launch (70_reset_and_hazards.md R170 to R176) -/

/-- The address of the cartridge-type byte (R53, R176). -/
def cartridgeTypeAddress : Nat := 0x0147

/-- The array after the loader: the image's bytes from 0x0000 upward, 0x00 elsewhere (R55, R174). An image
holds at most 65536 bytes; what a longer list has after them is not loaded (log 22). -/
def imageMemory (image : List Byte) : Memory := Memory.fromBytes 0 (image.take 0x10000)

/-- A launch with a LOADER_IMAGE and the parameters: the loader raises UnsupportedCartridge when the
cartridge-type byte is not 0x00, and no step runs (R153, R176); else the machine stands at power-on. -/
def launch (cfg : Config) (image : List Byte) : Except Fault State :=
  if (imageMemory image).byteAt cartridgeTypeAddress = 0x00 then
    .ok { State.reset with mem := imageMemory image, cfg := cfg }
  else .error .unsupportedCartridge

/-! ### The host port (20_memory.md R42, R60)

Each access is made between steps. It answers the value or the fault to the caller, and the machine
after it: a faulting access changes nothing, the run status included. -/

/-- read_byte of the host port. -/
def hostReadByte (s : State) (a : Word) : Except Fault Byte := busRead s a

/-- read_word of the host port. -/
def hostReadWord (s : State) (a : Word) : Except Fault Word := busReadWord s a

/-- The answer and the machine of a host write, from the bus operation's result. -/
def hostWriteResult (s : State) : Except Fault State → Except Fault Unit × State
  | .error f => (.error f, s)
  | .ok t => (.ok (), t)

/-- write_byte of the host port. -/
def hostWriteByte (s : State) (a : Word) (v : Byte) : Except Fault Unit × State :=
  hostWriteResult s (busWrite s a v)

/-- write_word of the host port. -/
def hostWriteWord (s : State) (a v : Word) : Except Fault Unit × State :=
  hostWriteResult s (busWriteWord s a v)

/-! ### Diagnostic regions (20_memory.md R53) -/

/-- The region names of the source (R53). -/
inductive Region where
  | rom | vram | ram | wram | oam | forbidden | io | hram | ie
deriving DecidableEq, Repr

/-- The region of an address, for diagnostics only: no rule depends on it except "forbidden".
PRESUMED: the bounds are general knowledge in the spec itself, but for the forbidden windows (log 17). -/
def region (a : Word) : Region :=
  if forbidden a then .forbidden
  else if a.toNat ≤ 0x7FFF then .rom
  else if a.toNat ≤ 0x9FFF then .vram
  else if a.toNat ≤ 0xBFFF then .ram
  else if a.toNat ≤ 0xDFFF then .wram
  else if a.toNat ≤ 0xFE9F then .oam
  else if a.toNat ≤ 0xFF7F then .io
  else if a.toNat ≤ 0xFFFE then .hram
  else .ie

end Sys2Proof.Machine
end

