-- ==== Sys2Proof/WellFormed.lean ====
section
/-! DEFINITION. Well-formedness. Operands are bit vectors of exactly the encoding's width, so what can
be ill-formed is the table an instruction is asked of (an opcode outside IMPLEMENTED) and the
parameters themselves (00_scope.md R7). -/

namespace Sys2Proof

/-- The instruction's opcode is in the dispatcher's table (30_encoding.md R62, R67): a core with this
table executes it. `LD A,d8` fails this check under the reference table (R92). -/
def Instr.inTable (cfg : Config) (i : Instr) : Bool := cfg.implemented.contains (opcodeOf i)

/-- IMPLEMENTED ⊆ S (R7). -/
def Config.implementedInSet (cfg : Config) : Bool :=
  cfg.implemented.all fun op => specifiedSet.contains op

/-- 0x01 ∈ IMPLEMENTED and 0x3E ∉ IMPLEMENTED, the two facts the source fixes (R7, R62). -/
def Config.sourceOpcodes (cfg : Config) : Bool :=
  cfg.implemented.contains 0x01 && !cfg.implemented.contains 0x3E

/-- A count is at least 1 (R73), and a taken jump costs the not-taken cost plus the extra cycles (R182). -/
def CycleCost.legal : CycleCost → Bool
  | .fixed n => decide (1 ≤ n)
  | .branch notTaken taken => decide (1 ≤ notTaken) && decide (notTaken ≤ taken)

/-- The entry has an outcome exactly when the opcode is a conditional jump's (R71, R180). -/
def CycleCost.fits (op : Byte) : CycleCost → Bool
  | .fixed _ => !conditionalJumpOpcodes.contains op
  | .branch _ _ => conditionalJumpOpcodes.contains op

/-- Every opcode of S has a legal entry in CYCLE_COST, of the right kind (R7, R180). -/
def Config.costsLegal (cfg : Config) : Bool :=
  specifiedSet.all fun op =>
    match lookupCost op cfg.cycleCost with
    | none => false
    | some cost => cost.legal && cost.fits op

/-- CYCLE_COST(0x01) = 3, the one cost the source fixes (R7, R180). -/
def Config.sourceCost (cfg : Config) : Bool := cfg.cycles 0x01 == 3

/-- The parameters meet every constraint R7 names. -/
def Config.legal (cfg : Config) : Bool :=
  cfg.implementedInSet && cfg.sourceOpcodes && cfg.costsLegal && cfg.sourceCost

end Sys2Proof
end

