-- ==== Sys2Proof/Safety.lean ====
section
/-! DEFINITION. What counts as a safe state and the words the statements use: access conditions, frames,
flags, and the invariant every step keeps. -/

namespace Sys2Proof.Machine

/-- A read of this address does not fault (20_memory.md R48). -/
abbrev Readable (s : State) (a : Word) : Prop := s.cfg.forbiddenReadsFault = true → forbidden a = false

/-- A read of this address faults (20_memory.md R48). -/
abbrev ReadFaults (s : State) (a : Word) : Prop := s.cfg.forbiddenReadsFault = true ∧ forbidden a = true

/-- The `n` addresses from `a` on (modulo 2^16) can be read. -/
abbrev ReadableFrom (s : State) (a : Word) (n : Nat) : Prop :=
  ∀ k, k < n → Readable s (a + BitVec.ofNat 16 k)

/-- The bytes `bs` stand in memory from address `a` on (modulo 2^16). -/
abbrev HoldsAt (s : State) (a : Word) (bs : List Byte) : Prop :=
  ∀ k, k < bs.length → bs[k]? = some (s.mem.byteAt (a + BitVec.ofNat 16 k).toNat)

/-- The four flags of a state. -/
abbrev FlagsAre (t : State) (z n h c : Bool) : Prop :=
  t.flag .z = z ∧ t.flag .n = n ∧ t.flag .h = h ∧ t.flag .c = c

/-- Bits 3..0 of F are as before (10_state.md R27). -/
abbrev KeepsLowF (s t : State) : Prop := t.f.extractLsb' 0 4 = s.f.extractLsb' 0 4

/-- Every 8-bit register but F and the ones named is as before. -/
abbrev KeepsRegsBut (written : List Reg8) (s t : State) : Prop :=
  ∀ r : Reg8, r ∉ written → t.reg r = s.reg r

/-- Every byte of memory reads as before. -/
abbrev KeepsMemory (s t : State) : Prop := ∀ a, t.mem.byteAt a = s.mem.byteAt a

/-- Every byte of memory but the stored one reads as before. -/
abbrev KeepsMemoryBut (stored : Word) (s t : State) : Prop :=
  ∀ a, a ≠ stored.toNat → t.mem.byteAt a = s.mem.byteAt a

/-- The run status and the parameters are as before. -/
abbrev KeepsRun (s t : State) : Prop := t.status = s.status ∧ t.cfg = s.cfg

/-- The end of a completed instruction that is no jump: pc is past its `length` bytes, the step returns
CYCLES(op), and the run status and the parameters are as before. -/
abbrev Retires (op : Byte) (length : Nat) (s t : State) : Prop :=
  t.pc = s.pc + BitVec.ofNat 16 length ∧ t.cyclesReturned = some (s.cfg.cycles op) ∧ KeepsRun s t

/-- The end of a completed jump: pc is the given one and the step returns the given count. -/
abbrev JumpsTo (target : Word) (cycles : Nat) (s t : State) : Prop :=
  t.pc = target ∧ t.cyclesReturned = some cycles ∧ KeepsRun s t

/-- Nothing of the register file but pc has changed, and no byte of memory. -/
abbrev KeepsRegsAndMemory (s t : State) : Prop :=
  t.f = s.f ∧ KeepsRegsBut [] s t ∧ t.sp = s.sp ∧ KeepsMemory s t

/-- The machine is about to run `i`: it is running, the instruction's bytes stand at pc and can be read,
and its opcode is in the table. -/
abbrev ReadyToRun (i : Instr) (s : State) : Prop :=
  s.status = .running ∧ HoldsAt s s.pc (encode i) ∧ ReadableFrom s s.pc (encode i).length ∧
    i.inTable s.cfg = true

/-- The machine has fetched opcode `op` from pc and found it in the table. -/
abbrev OpcodeFound (op : Byte) (s : State) : Prop :=
  s.status = .running ∧ Readable s s.pc ∧ s.mem.byteAt s.pc.toNat = op ∧ s.cfg.implemented.contains op = true

/-- The opcode `op` has `n` operand bytes, and the first of them whose read faults ends the step with
ForbiddenMemoryAccess(its address, Read) (20_memory.md R48, 60_exceptions.md R152, R156). -/
abbrev OperandFetchFaults (op : Byte) (n : Nat) : Prop :=
  ∀ s k, OpcodeFound op s → k < n →
    (∀ j, j < k → Readable s (s.pc + 1 + BitVec.ofNat 16 j)) →
    ReadFaults s (s.pc + 1 + BitVec.ofNat 16 k) →
    step s = .fault (.forbiddenMemoryAccess (s.pc + 1 + BitVec.ofNat 16 k) .read)

/-- The invariant of a running machine: the memory is in canonical form, the bits of F without a meaning
are 0 (R27), the status is `Running` (R33), and the parameters meet R7's constraints. -/
abbrev RunningInv (s : State) : Prop :=
  s.mem.wf = true ∧ s.f.extractLsb' 0 4 = 0#4 ∧ s.status = .running ∧ s.cfg.legal = true

/-- `k` steps from `s` all complete: a safe run of length `k`. -/
def SafeRun (k : Nat) (s : State) : Prop := ∃ t, (Host.Core.run
  { State := State, Fault := Fault, Refusal := Refusal, step := step, reset := State.reset } k s) = .next t

end Sys2Proof.Machine
end

