-- ==== Sys2Proof/Certificates/Slice0/Obligations.lean ====
section
/-! DEFINITION. The statements for the provers. Each docstring names the rule of spec/ it formalises.
Statements about exec say what the next state IS, field by field, in numbers and bits of their own and
not through the model's ALU and flag functions. -/

open Sys2Proof Sys2Proof.Machine

/-! ## Words the statements share -/

/-- What ADD A with source byte `b` leaves (R81, R88, R104). -/
abbrev Sys2Proof.Machine.AddedToA (b : Byte) (s t : State) : Prop :=
  t.a = s.a + b ∧
  FlagsAre t (decide ((s.a.toNat + b.toNat) % 256 = 0)) false
    (decide (s.a.toNat % 16 + b.toNat % 16 > 15)) (decide (s.a.toNat + b.toNat > 255)) ∧
  KeepsLowF s t ∧ KeepsRegsBut [.a] s t ∧ t.sp = s.sp ∧ KeepsMemory s t

/-- What SUB with source byte `b` leaves (R82, R88, R107). -/
abbrev Sys2Proof.Machine.SubtractedFromA (b : Byte) (s t : State) : Prop :=
  t.a = s.a - b ∧
  FlagsAre t (decide (s.a = b)) true (decide (s.a.toNat % 16 < b.toNat % 16)) (decide (s.a.toNat < b.toNat)) ∧
  KeepsLowF s t ∧ KeepsRegsBut [.a] s t ∧ t.sp = s.sp ∧ KeepsMemory s t

/-- What OR with source byte `b` leaves (R85, R88, R110). -/
abbrev Sys2Proof.Machine.OredIntoA (b : Byte) (s t : State) : Prop :=
  (∀ j, j < 8 → t.a.getLsbD j = (s.a.getLsbD j || b.getLsbD j)) ∧
  FlagsAre t (decide (s.a = 0 ∧ b = 0)) false false false ∧
  KeepsLowF s t ∧ KeepsRegsBut [.a] s t ∧ t.sp = s.sp ∧ KeepsMemory s t

/-- What CP with source byte `b` leaves: A is as before (R86, R88, R113). -/
abbrev Sys2Proof.Machine.ComparedWithA (b : Byte) (s t : State) : Prop :=
  FlagsAre t (decide (s.a = b)) true (decide (s.a.toNat % 16 < b.toNat % 16)) (decide (s.a.toNat < b.toNat)) ∧
  KeepsLowF s t ∧ KeepsRegsBut [] s t ∧ t.sp = s.sp ∧ KeepsMemory s t

/-- The flags INC leaves for the old byte `n`: C is as before (R83, R100). -/
abbrev Sys2Proof.Machine.IncFlags (n : Byte) (s t : State) : Prop :=
  FlagsAre t (decide (n = 0xFF)) false (decide (n.toNat % 16 = 15)) (s.flag .c) ∧ KeepsLowF s t

/-- The flags DEC leaves for the old byte `n`: C is as before (R84, R102). -/
abbrev Sys2Proof.Machine.DecFlags (n : Byte) (s t : State) : Prop :=
  FlagsAre t (decide (n = 0x01)) true (decide (n.toNat % 16 = 0)) (s.flag .c) ∧ KeepsLowF s t

/-- A read-modify-write of the byte at x[HL] by an instruction `i` with opcode `op`: the bits it stores,
the flags it leaves, its frame, and where it faults instead (R101, R103). -/
abbrev Sys2Proof.Machine.UpdatesByteAtHL (i : Instr) (op : Byte) (update : Byte → Byte)
    (flags : Byte → State → State → Prop) : Prop :=
  (∀ s : State, forbidden (s.pair .hl) = false →
    ∃ t, exec i s = .next t ∧
      (s.mem.wf = true →
        t.mem.byteAt (s.pair .hl).toNat = update (s.mem.byteAt (s.pair .hl).toNat)) ∧
      KeepsMemoryBut (s.pair .hl) s t ∧ flags (s.mem.byteAt (s.pair .hl).toNat) s t ∧
      KeepsRegsBut [] s t ∧ t.sp = s.sp ∧ Retires op 1 s t) ∧
  (∀ s : State, forbidden (s.pair .hl) = true → s.cfg.forbiddenReadsFault = true →
    exec i s = .fault (.forbiddenMemoryAccess (s.pair .hl) .read)) ∧
  (∀ s : State, forbidden (s.pair .hl) = true → s.cfg.forbiddenReadsFault = false →
    exec i s = .fault (.forbiddenMemoryAccess (s.pair .hl) .write))

/-- An operation of the (HL) form `i` with opcode `op`: it completes with `effect` of the byte at x[HL]
when that byte can be read, and faults when its read faults. -/
abbrev Sys2Proof.Machine.ReadsByteAtHL (i : Instr) (op : Byte) (effect : Byte → State → State → Prop) : Prop :=
  (∀ s : State, Readable s (s.pair .hl) →
    ∃ t, exec i s = .next t ∧ effect (s.mem.byteAt (s.pair .hl).toNat) s t ∧ Retires op 1 s t) ∧
  (∀ s : State, ReadFaults s (s.pair .hl) →
    exec i s = .fault (.forbiddenMemoryAccess (s.pair .hl) .read))

/-- `before` and `after` agree on everything but F's N and H bits. -/
abbrev Sys2Proof.Machine.AgreeButNAndH (t u : State) : Prop :=
  u = { t with f := u.f } ∧ u.flag .z = t.flag .z ∧ u.flag .c = t.flag .c ∧
    u.f.extractLsb' 0 4 = t.f.extractLsb' 0 4

/-! ## Power-on and launch -/

/-- R34: the power-on register file, the pair values it gives and the run status. -/
def Obligations.PowerOnRegisterFile : Prop :=
  State.reset.a = 0x01 ∧ State.reset.f = 0x80 ∧ FlagsAre State.reset true false false false ∧
  State.reset.b = 0x00 ∧ State.reset.c = 0x13 ∧ State.reset.d = 0x00 ∧ State.reset.e = 0xD8 ∧
  State.reset.h = 0x01 ∧ State.reset.l = 0x4D ∧ State.reset.sp = 0xFFFE ∧ State.reset.pc = 0x0100 ∧
  State.reset.pair .bc = 0x0013 ∧ State.reset.pair .de = 0x00D8 ∧ State.reset.pair .hl = 0x014D ∧
  State.reset.status = .running

/-- R55, R172: a launch leaves the loader's bytes in memory, 0x00 where it set none, and every register and
the run status at its power-on value. `State.reset` is the launch of an image without bytes, under the
reference parameters (R7, D1, D6, D10; logs 1 and 3), so all its memory is 0x00. THE MODEL'S CHOICES: that
the array is in canonical form (log 14), and that launch takes any parameters, legal or not (log 23). -/
def Obligations.LaunchLoadsTheImage : Prop :=
  launch Config.reference [] = .ok State.reset ∧ (∀ a, State.reset.mem.byteAt a = 0x00) ∧
  ∀ (cfg : Config) (image : List Byte), image.length ≤ 0x10000 → image.getD 0x0147 0x00 = 0x00 →
    ∃ s, launch cfg image = .ok s ∧ s.mem.wf = true ∧
      (∀ a, s.mem.byteAt a = image.getD a 0x00) ∧
      s.a = 0x01 ∧ s.f = 0x80 ∧ s.b = 0x00 ∧ s.c = 0x13 ∧ s.d = 0x00 ∧ s.e = 0xD8 ∧ s.h = 0x01 ∧
      s.l = 0x4D ∧ s.sp = 0xFFFE ∧ s.pc = 0x0100 ∧ s.status = .running ∧ s.cfg = cfg

/-- R153 (the spec's decision D24): the loader raises UnsupportedCartridge exactly on a cartridge-type byte
other than 0x00, and no step raises it. -/
def Obligations.OnlyTheLoaderRejectsCartridges : Prop :=
  (∀ (cfg : Config) (image : List Byte), image.length ≤ 0x10000 → image.getD 0x0147 0x00 ≠ 0x00 →
    launch cfg image = .error .unsupportedCartridge) ∧
  (∀ s, step s ≠ .fault .unsupportedCartridge)

/-! ## Registers and flags -/

/-- R23: a pair is a view of its two registers. -/
def Obligations.PairsAreViewsOfTwoRegisters : Prop :=
  ∀ p hi lo, (p, hi, lo) ∈ [(Reg16.bc, Reg8.b, Reg8.c), (.de, .d, .e), (.hl, .h, .l)] →
    ∀ (s : State),
      (s.pair p).toNat = (s.reg hi).toNat * 256 + (s.reg lo).toNat ∧
      ∀ v : Word,
        ((s.setPair p v).reg hi).toNat = v.toNat / 256 ∧ ((s.setPair p v).reg lo).toNat = v.toNat % 256 ∧
        (s.setPair p v).pair p = v ∧
        KeepsRegsBut [hi, lo] s (s.setPair p v) ∧ (s.setPair p v).f = s.f ∧ (s.setPair p v).sp = s.sp ∧
        (s.setPair p v).pc = s.pc ∧ (s.setPair p v).mem = s.mem

/-- R25, R26: Z, N, H and C are bits 7, 6, 5 and 4 of F; setflag writes the one bit of its flag, leaves F's
other seven bits and every other register, and two writes to different flags commute. -/
def Obligations.SetflagWritesOneBit : Prop :=
  (∀ fl bit, (fl, bit) ∈ [(Flag.z, 7), (.n, 6), (.h, 5), (.c, 4)] → ∀ (s : State) (v : Bool),
    s.flag fl = s.f.getLsbD bit ∧
    ∀ j, j < 8 → (s.setFlag fl v).f.getLsbD j = if j = bit then v else s.f.getLsbD j) ∧
  (∀ (s : State) (fl : Flag) (v : Bool), s.setFlag fl v = { s with f := (s.setFlag fl v).f }) ∧
  (∀ (s : State) (fl g : Flag) (v w : Bool), fl ≠ g →
    (s.setFlag fl v).setFlag g w = (s.setFlag g w).setFlag fl v)

/-- R27 (derived in the spec from R26 and R34): no instruction writes bits 3..0 of F, and from power-on they
are 0. -/
def Obligations.LowFlagBitsAreNeverWritten : Prop :=
  State.reset.f.extractLsb' 0 4 = 0#4 ∧ (∀ i s t, exec i s = .next t → KeepsLowF s t)

/-- R28: which instructions can change each flag. Derived in the spec from the instruction rules. That INC
rr and DEC rr write no flag is D12, that NOP, the loads and the jumps write none is D13 (log 13,
PRESUMED). Opcode values: log 2. -/
def Obligations.OnlyTheListedInstructionsWriteFlags : Prop :=
  ∀ i s t, exec i s = .next t →
    (t.flag .z ≠ s.flag .z → opcodeOf i ∈
      [0x04, 0x0C, 0x14, 0x1C, 0x24, 0x2C, 0x34, 0x3C, 0x05, 0x0D, 0x15, 0x1D, 0x25, 0x2D, 0x35, 0x3D,
       0x80, 0x81, 0x82, 0x83, 0x84, 0x85, 0x86, 0x87, 0xC6, 0x90, 0x91, 0x92, 0x93, 0x94, 0x95, 0x96, 0x97,
       0xD6, 0xB0, 0xB1, 0xB2, 0xB3, 0xB4, 0xB5, 0xB6, 0xB7, 0xF6, 0xB8, 0xB9, 0xBA, 0xBB, 0xBC, 0xBD, 0xBE,
       0xBF, 0xFE, 0xAF, 0x07, 0x1F]) ∧
    (t.flag .c ≠ s.flag .c → opcodeOf i ∈
      [0x09, 0x19, 0x29, 0x39, 0x80, 0x81, 0x82, 0x83, 0x84, 0x85, 0x86, 0x87, 0xC6, 0x90, 0x91, 0x92, 0x93,
       0x94, 0x95, 0x96, 0x97, 0xD6, 0xB0, 0xB1, 0xB2, 0xB3, 0xB4, 0xB5, 0xB6, 0xB7, 0xF6, 0xB8, 0xB9, 0xBA,
       0xBB, 0xBC, 0xBD, 0xBE, 0xBF, 0xFE, 0xAF, 0x07, 0x1F]) ∧
    (opcodeOf i ∈
      [0x00, 0x01, 0x11, 0x21, 0x31, 0x06, 0x0E, 0x16, 0x1E, 0x26, 0x2E, 0x3E, 0x36, 0x32, 0x03, 0x13, 0x23,
       0x33, 0x0B, 0x1B, 0x2B, 0x3B, 0x18, 0x20, 0x28, 0x30, 0x38, 0xC3, 0xC2, 0xCA, 0xD2, 0xDA] →
      t.f = s.f)

/-- R28: no instruction reads N or H. Changing either before an instruction changes nothing after it but N
and H, and the same faults happen. Derived in the spec from the instruction rules. -/
def Obligations.NAndHAreNeverRead : Prop :=
  ∀ (i : Instr) (s : State) (fl : Flag) (v : Bool), fl = .n ∨ fl = .h →
    (∀ t, exec i s = .next t → ∃ u, exec i (s.setFlag fl v) = .next u ∧ AgreeButNAndH t u) ∧
    (∀ f, exec i s = .fault f → exec i (s.setFlag fl v) = .fault f)

/-- R29: SP is data only. LD SP,d16, INC SP and DEC SP alone change it. Derived in the spec from R62. -/
def Obligations.OnlyThreeInstructionsWriteSP : Prop :=
  ∀ i s t, exec i s = .next t → t.sp ≠ s.sp → (∃ nn, i = .ldSPd16 nn) ∨ i = .incSP ∨ i = .decSP

/-! ## The ALU -/

/-- R81. -/
def Obligations.AddByteRule : Prop :=
  ∀ a b : Byte, (add8 a b).result.toNat = (a.toNat + b.toNat) % 256 ∧
    (add8 a b).halfCarry = decide (a.toNat % 16 + b.toNat % 16 > 15) ∧
    (add8 a b).carry = decide (a.toNat + b.toNat > 255)

/-- R82. -/
def Obligations.SubtractByteRule : Prop :=
  ∀ a b : Byte, ((sub8 a b).result.toNat : Int) = ((a.toNat : Int) - b.toNat) % 256 ∧
    (sub8 a b).halfCarry = decide (a.toNat % 16 < b.toNat % 16) ∧
    (sub8 a b).carry = decide (a.toNat < b.toNat)

/-- R83, R84: inc8 and dec8, whose outputs hold no carry. -/
def Obligations.IncrementAndDecrementByteRule : Prop :=
  ∀ n : Byte,
    (inc8 n).result = (add8 n 1).result ∧ (inc8 n).zero = decide (n.toNat = 255) ∧
    (inc8 n).halfCarry = (add8 n 1).halfCarry ∧ (inc8 n).halfCarry = decide (n.toNat % 16 = 15) ∧
    (dec8 n).result = (sub8 n 1).result ∧ (dec8 n).zero = decide (n.toNat = 1) ∧
    (dec8 n).halfCarry = (sub8 n 1).halfCarry ∧ (dec8 n).halfCarry = decide (n.toNat % 16 = 0)

/-- R85, R86: or8 clears both carries, and Z is set from it exactly when its result is 0; cp8 gives the
flags of sub8 and no result. -/
def Obligations.OrAndCompareByteRule : Prop :=
  ∀ a b : Byte,
    (∀ j, j < 8 → (or8 a b).result.getLsbD j = (a.getLsbD j || b.getLsbD j)) ∧
    (or8 a b).halfCarry = false ∧ (or8 a b).carry = false ∧
    (∀ (s : State) (n : Bool), (s.setAluFlags (or8 a b) n).flag .z = decide (a = 0 ∧ b = 0)) ∧
    cp8 a b = (decide (a = b), (sub8 a b).halfCarry, (sub8 a b).carry)

/-- R87: half carry out of bit 11, carry out of bit 15. The spec's own resolution of a conflict (C1, D11;
log 11). -/
def Obligations.AddWordRule : Prop :=
  ∀ x n : Word, (add16ToPair x n).result.toNat = (x.toNat + n.toNat) % 65536 ∧
    (add16ToPair x n).halfCarry = decide (x.toNat % 4096 + n.toNat % 4096 > 4095) ∧
    (add16ToPair x n).carry = decide (x.toNat + n.toNat > 65535)

/-- R89: the offset byte is read in two's complement and the sum wraps at 16 bits. -/
def Obligations.AddSignedRule : Prop :=
  ∀ (base : Word) (e : Byte), ((addSigned base e).toNat : Int) = ((base.toNat : Int) + e.toInt) % 65536 ∧
    -128 ≤ e.toInt ∧ e.toInt ≤ 127

/-! ## The bus -/

/-- R43, R46, R47, R48: a byte access. Writes to the two windows fault and reads of them fault when the
parameter says so (R48's value for it is decision D6, log 7; the statement holds for both); every other
access works, and a write changes no other byte. -/
def Obligations.ByteAccessRule : Prop :=
  ∀ (s : State) (a : Word),
    (((0xE000 ≤ a.toNat ∧ a.toNat ≤ 0xFDFF) ∨ (0xFEA0 ≤ a.toNat ∧ a.toNat ≤ 0xFEFF)) →
      (∀ v, busWrite s a v = .error (.forbiddenMemoryAccess a .write)) ∧
      (s.cfg.forbiddenReadsFault = true → busRead s a = .error (.forbiddenMemoryAccess a .read))) ∧
    (¬((0xE000 ≤ a.toNat ∧ a.toNat ≤ 0xFDFF) ∨ (0xFEA0 ≤ a.toNat ∧ a.toNat ≤ 0xFEFF)) →
      busRead s a = .ok (s.mem.byteAt a.toNat) ∧
      ∀ v, ∃ t, busWrite s a v = .ok t ∧ t = { s with mem := t.mem } ∧
        (s.mem.wf = true → busRead t a = .ok v) ∧ KeepsMemoryBut a s t) ∧
    (s.cfg.forbiddenReadsFault = false → busRead s a = .ok (s.mem.byteAt a.toNat))

/-- R44, R45 (the wrap at 0xFFFF is the spec's decision D5; log 8): a word is two bytes, the low one at a
and the high one at a + 1 modulo 0x10000; what is written is read back, at 0xFFFF too. -/
def Obligations.WordAccessRule : Prop :=
  ∀ (s : State) (a v : Word), s.mem.wf = true → forbidden a = false → forbidden (a + 1) = false →
    (∃ w, busReadWord s a = .ok w ∧
      w.toNat = (s.mem.byteAt ((a.toNat + 1) % 65536)).toNat * 256 + (s.mem.byteAt a.toNat).toNat) ∧
    (∃ t, busWriteWord s a v = .ok t ∧ busReadWord t a = .ok v ∧
      (t.mem.byteAt a.toNat).toNat = v.toNat % 256 ∧
      (t.mem.byteAt ((a.toNat + 1) % 65536)).toNat = v.toNat / 256 ∧
      (∀ x, x ≠ a.toNat → x ≠ (a.toNat + 1) % 65536 → t.mem.byteAt x = s.mem.byteAt x) ∧
      t = { s with mem := t.mem })

/-- R49 (the order of the checks is the spec's decision D8; log 9): a word access faults with its first
forbidden byte's address, and a word write that faults leaves the machine as it was. -/
def Obligations.WordAccessFaultsOnFirstForbiddenByte : Prop :=
  ∀ (s : State) (a v : Word),
    (forbidden a = true →
      hostWriteWord s a v = (.error (.forbiddenMemoryAccess a .write), s) ∧
      (s.cfg.forbiddenReadsFault = true → busReadWord s a = .error (.forbiddenMemoryAccess a .read))) ∧
    (forbidden a = false → forbidden (a + 1) = true →
      hostWriteWord s a v = (.error (.forbiddenMemoryAccess (a + 1) .write), s) ∧
      (s.cfg.forbiddenReadsFault = true →
        busReadWord s a = .error (.forbiddenMemoryAccess (a + 1) .read)))

/-- R60 (the spec's decision D15; log 16): a host access follows the bus rules; one that faults changes
nothing, the run status included, and one that works changes memory alone and keeps its canonical form
(the model's, log 14). -/
def Obligations.HostAccessNeverStopsTheCore : Prop :=
  ∀ (s : State) (a : Word),
    hostReadByte s a = busRead s a ∧ hostReadWord s a = busReadWord s a ∧
    (∀ v, (∃ f, busWrite s a v = .error f ∧ hostWriteByte s a v = (.error f, s)) ∨
      (∃ t, busWrite s a v = .ok t ∧ hostWriteByte s a v = (.ok (), t) ∧ t = { s with mem := t.mem } ∧
        (s.mem.wf = true → t.mem.wf = true))) ∧
    (∀ v, (∃ f, busWriteWord s a v = .error f ∧ hostWriteWord s a v = (.error f, s)) ∨
      (∃ t, busWriteWord s a v = .ok t ∧ hostWriteWord s a v = (.ok (), t) ∧ t = { s with mem := t.mem } ∧
        (s.mem.wf = true → t.mem.wf = true)))

/-! ## Encoding -/

/-- R61, R65, R68: decoding the bytes of any instruction gives it back with every operand and leaves the
bytes after it. Opcode values: log 2. -/
def Obligations.DecodeOfEncodeIsTheInstruction : Prop :=
  ∀ (i : Instr) (rest : List Byte), decode (encode i ++ rest) = .ok (i, rest)

/-- R61, R66, R68: what the decoder takes from the front of a list is the encoding of what it answers.
Opcode values: log 2. -/
def Obligations.EncodeOfDecodeIsTheBytes : Prop :=
  ∀ (bs rest : List Byte) (i : Instr), decode bs = .ok (i, rest) → bs = encode i ++ rest

/-- R62, R67, R72: the decoder knows exactly the 91 opcodes of S, and refuses every other opcode by name.
The members of S and their values are general knowledge in the spec (log 2). -/
def Obligations.DecoderKnowsExactlyTheSpecifiedSet : Prop :=
  specifiedSet.length = 91 ∧ specifiedSet.Nodup ∧
  (∀ op rest, op ∉ specifiedSet → decode (op :: rest) = .error (.outsideSet op)) ∧
  (∀ op x y, op ∈ specifiedSet → ∃ i rest, decode [op, x, y] = .ok (i, rest) ∧ opcodeOf i = op ∧
    1 ≤ (encode i).length ∧ (encode i).length ≤ 3)

/-- R68, R72: a word of each family, written out bit by bit in the fields x y z, decodes to the instruction
it stands for. Opcode values and fields: log 2. -/
def Obligations.SampleWordsDecode : Prop :=
  decode [0b00000000] = .ok (.nop, []) ∧
  decode [0b00000001, 0x45, 0x23] = .ok (.ldBCd16 0x2345, []) ∧
  decode [0b00001110, 0x10] = .ok (.ldCd8 0x10, []) ∧
  decode [0b00110110, 0x5A] = .ok (.ldAtHLd8 0x5A, []) ∧
  decode [0b00110010] = .ok (.ldAtHLDecA, []) ∧
  decode [0b00011100] = .ok (.incE, []) ∧ decode [0b00110101] = .ok (.decAtHL, []) ∧
  decode [0b10000101] = .ok (.addAL, []) ∧ decode [0b10010110] = .ok (.subAtHL, []) ∧
  decode [0b11110110, 0x01] = .ok (.ord8 0x01, []) ∧ decode [0b10111111] = .ok (.cpA, []) ∧
  decode [0b10101111] = .ok (.xorA, []) ∧ decode [0b00111011] = .ok (.decSP, []) ∧
  decode [0b00101001] = .ok (.addHLHL, []) ∧ decode [0b00011111] = .ok (.rra, []) ∧
  decode [0b00111000, 0xFC] = .ok (.jrC 0xFC, []) ∧
  decode [0b11010010, 0x34, 0x12] = .ok (.jpNC 0x1234, [])

/-! ## The step and its faults -/

/-- R70: when the bytes at pc are readable, decode to `i`, and `i` is in the table, the step is exec of `i`
at that state; exec itself moves pc past the instruction's bytes. That exec, not the fetch, moves pc is the
model's reading (log 18). -/
def Obligations.StepRunsTheDecodedInstruction : Prop :=
  ∀ (i : Instr) (s : State), ReadyToRun i s → fetchInstr s = .ok i ∧ step s = exec i s

/-- R151: an opcode that is not in IMPLEMENTED faults with its value and the address it was fetched from,
whatever follows it, and registers and memory stay as before the fetch. -/
def Obligations.OpcodeOutsideTheTableFaults : Prop :=
  ∀ s : State, s.status = .running → Readable s s.pc →
    s.cfg.implemented.contains (s.mem.byteAt s.pc.toNat) = false →
    step s = .fault (.unsupportedOpcode (s.mem.byteAt s.pc.toNat) s.pc) ∧
    afterStep s = { s with status := .faulted (.unsupportedOpcode (s.mem.byteAt s.pc.toNat) s.pc)
                           cyclesReturned := (afterStep s).cyclesReturned }

/-- THE MODEL'S CHOICE (log 19): R7 wants IMPLEMENTED inside S; an opcode that a table lists outside S has
no handler and counts as absent. -/
def Obligations.OpcodeListedOutsideSCountsAsAbsent : Prop :=
  ∀ s : State, s.status = .running → Readable s s.pc →
    specifiedSet.contains (s.mem.byteAt s.pc.toNat) = false →
    step s = .fault (.unsupportedOpcode (s.mem.byteAt s.pc.toNat) s.pc)

/-- R48, R156 (the spec's decisions D6 and D8; logs 7 and 9): an opcode fetch that faults is a
ForbiddenMemoryAccess whatever the byte, and the first operand byte whose fetch faults is reported, before
any data access. Operand counts are those of the map (log 2). -/
def Obligations.FetchFaultsComeFirst : Prop :=
  (∀ s : State, s.status = .running → ReadFaults s s.pc →
    step s = .fault (.forbiddenMemoryAccess s.pc .read)) ∧
  (∀ op n, operandCount op = some n → OperandFetchFaults op n)

/-- R154, R155 (the spec's decision D7; that cyclesReturned becomes none is the model's, logs 4 and 5): a
faulting step leaves every register, pc included, and every byte of memory; the fault goes to the driver in
place of a count. -/
def Obligations.FaultingStepRestoresEverything : Prop :=
  ∀ s f, step s = .fault f →
    stepReturn s = .fault f ∧ (afterStep s).status = .faulted f ∧
    afterStep s = { s with status := .faulted f, cyclesReturned := none }

/-- R33, R158 (the spec's decision D16; what a step answers then is the model's, log 6): a completed step
leaves the status Running, a faulting one sets it, and from then on no step is defined and nothing changes.
-/
def Obligations.FaultedCoreNeverRunsAgain : Prop :=
  (∀ s t, step s = .next t → t.status = .running) ∧
  (∀ s f, step s = .fault f →
    ∀ k, afterSteps (k + 1) s = { s with status := .faulted f, cyclesReturned := none }) ∧
  (∀ s f, s.status = .faulted f → (∀ t, step s ≠ .next t) ∧ (∀ g, step s ≠ .fault g) ∧ afterStep s = s)

/-- R150, R152 (an opcode listed outside S is the model's choice, log 19): what a step's fault can say: the
opcode at pc, outside the table; or a forbidden address the step reads (at pc, the two bytes after it, or
HL) or writes (HL or HL-1). -/
def Obligations.StepFaultsAreAccurate : Prop :=
  ∀ s f, step s = .fault f →
    (f = .unsupportedOpcode (s.mem.byteAt s.pc.toNat) s.pc ∧ Readable s s.pc ∧
      (s.cfg.implemented.contains (s.mem.byteAt s.pc.toNat) = false ∨
        specifiedSet.contains (s.mem.byteAt s.pc.toNat) = false)) ∨
    (∃ a, f = .forbiddenMemoryAccess a .read ∧ ReadFaults s a ∧
      (a = s.pc ∨ a = s.pc + 1 ∨ a = s.pc + 2 ∨ a = s.pair .hl)) ∨
    (∃ a, f = .forbiddenMemoryAccess a .write ∧ forbidden a = true ∧
      (a = s.pair .hl ∨ a = s.pair .hl - 1))

/-- R167 (the spec's decision D28): every step of a running core completes or faults; it never waits and is
never refused. -/
def Obligations.EveryStepCompletesOrFaults : Prop :=
  ∀ s : State, s.status = .running → (∃ t, step s = .next t) ∨ (∃ f, step s = .fault f)

/-- R73 (the spec's decision D23; the field that holds the count is the model's, log 4): a completed step
returns its opcode's CYCLE_COST entry, at least 1 under a legal configuration, the taken entry only for a
conditional jump; a faulting step returns no count. -/
def Obligations.StepReturnsItsCycleCount : Prop :=
  (∀ s t, s.cfg.legal = true → step s = .next t →
    ∃ taken n, n = s.cfg.branchCycles (s.mem.byteAt s.pc.toNat) taken ∧ 1 ≤ n ∧
      (taken = true → s.mem.byteAt s.pc.toNat ∈ conditionalJumpOpcodes) ∧
      t.cyclesReturned = some n ∧ stepReturn s = .ok n) ∧
  (∀ s f, step s = .fault f → stepReturn s = .fault f ∧ (afterStep s).cyclesReturned = none)

/-- 60_exceptions.md R154, 10_state.md R27, 20_memory.md R40: every completed step keeps the invariant of a
running machine. The canonical form is the model's (log 14), and that the parameters are legal is R7 (logs 1
and 20). -/
def Obligations.EveryStepKeepsTheInvariant : Prop :=
  ∀ s t, RunningInv s → step s = .next t → RunningInv t

/-- The machine right after power-on meets the invariant. The reference parameters are D1, D6 and D10 (logs
1 and 3); the canonical form and what is legal are the model's (logs 14 and 20). -/
def Obligations.PowerOnMeetsTheInvariant : Prop := RunningInv State.reset

/-- R46, R47: no completed step changes a byte of a forbidden window. -/
def Obligations.ForbiddenWindowsNeverChange : Prop :=
  ∀ (s t : State) (a : Word),
    ((0xE000 ≤ a.toNat ∧ a.toNat ≤ 0xFDFF) ∨ (0xFEA0 ≤ a.toNat ∧ a.toNat ≤ 0xFEFF)) →
    step s = .next t → t.mem.byteAt a.toNat = s.mem.byteAt a.toNat

/-- R41: the only data writes are one byte at HL by LD (HL),d8, INC (HL), DEC (HL), and one byte at HL-1 by
LD (HL-),A. Derived in the spec from the instruction rules. -/
def Obligations.OnlyFourInstructionsWriteMemory : Prop :=
  ∀ (i : Instr) (s t : State) (a : Nat), exec i s = .next t → t.mem.byteAt a ≠ s.mem.byteAt a →
    (((∃ n, i = .ldAtHLd8 n) ∨ i = .incAtHL ∨ i = .decAtHL) ∧ a = (s.pair .hl).toNat) ∨
    (i = .ldAtHLDecA ∧ a = (s.pair .hl - 1).toNat)

/-- R71, R180: an instruction's effect depends neither on the table nor on the cycle costs, except for the
count returned. The fields cfg and cyclesReturned are the model's (logs 1 and 4). -/
def Obligations.TableAndCostsChangeNoEffect : Prop :=
  ∀ (i : Instr) (s : State) (table : List Byte) (costs : List (Byte × CycleCost)),
    (∀ t, exec i s = .next t →
      ∃ n, exec i { s with cfg := { s.cfg with implemented := table, cycleCost := costs } } =
        .next { t with cfg := { t.cfg with implemented := table, cycleCost := costs }
                       cyclesReturned := some n }) ∧
    (∀ t, exec i s = .next t →
      exec i { s with cfg := { s.cfg with implemented := table } } =
        .next { t with cfg := { t.cfg with implemented := table } }) ∧
    (∀ f, exec i s = .fault f →
      exec i { s with cfg := { s.cfg with implemented := table, cycleCost := costs } } = .fault f)

/-- R59, R186 (the spec's decision D26): a byte stored where the next instruction stands is the one the next
step fetches. -/
def Obligations.StoredOpcodeIsFetchedNext : Prop :=
  ∀ (s : State) (i : Instr), s.mem.wf = true → s.status = .running →
    s.pair .hl = s.pc + 2 → forbidden (s.pc + 2) = false → encode i = [opcodeOf i] →
    i.inTable s.cfg = true →
    ∃ t, exec (.ldAtHLd8 (opcodeOf i)) s = .next t ∧ t.pc = s.pc + 2 ∧ step t = exec i t

/-! ## No-operation and loads -/

/-- R90. NOP and its opcode are the spec's choice (D3; logs 2 and 12). No flag: D13, log 13. -/
def Obligations.NopOnlyMovesThePc : Prop :=
  encode .nop = [0x00] ∧
  (∀ s, ∃ t, exec .nop s = .next t ∧ KeepsRegsAndMemory s t ∧ Retires 0x00 1 s t) ∧
  (∀ s : State, OpcodeFound 0x00 s → ∃ t, step s = .next t ∧ KeepsRegsAndMemory s t ∧ Retires 0x00 1 s t)

/-- R91. No flag: D13, log 13. Opcode values: log 2, but for 0x01. -/
def Obligations.LoadPairImmediateResult : Prop :=
  ∀ make op p written, (make, op, p, written) ∈
      [(Instr.ldBCd16, (0x01 : Byte), Reg16.bc, [Reg8.b, Reg8.c]), (.ldDEd16, 0x11, .de, [.d, .e]),
       (.ldHLd16, 0x21, .hl, [.h, .l]), (.ldSPd16, 0x31, .sp, [])] →
    OperandFetchFaults op 2 ∧
    ∀ nn : Word,
      encode (make nn) = [op, nn.extractLsb' 0 8, nn.extractLsb' 8 8] ∧
      ∀ s, ∃ t, exec (make nn) s = .next t ∧ t.pair p = nn ∧ t.f = s.f ∧ KeepsRegsBut written s t ∧
        (p ≠ .sp → t.sp = s.sp) ∧ KeepsMemory s t ∧ Retires op 3 s t

/-- R92: LD A,d8 has this effect too, in a configuration whose table holds 0x3E; under the source's two
constraints its step faults. No flag: D13, log 13. Opcode values: log 2, but for 0x3E; log 24. -/
def Obligations.LoadRegisterImmediateResult : Prop :=
  (∀ make op r, (make, op, r) ∈
      [(Instr.ldBd8, (0x06 : Byte), Reg8.b), (.ldCd8, 0x0E, .c), (.ldDd8, 0x16, .d), (.ldEd8, 0x1E, .e),
       (.ldHd8, 0x26, .h), (.ldLd8, 0x2E, .l), (.ldAd8, 0x3E, .a)] →
    OperandFetchFaults op 1 ∧
    ∀ n : Byte, encode (make n) = [op, n] ∧
      ∀ s, ∃ t, exec (make n) s = .next t ∧ t.reg r = n ∧ t.f = s.f ∧ KeepsRegsBut [r] s t ∧
        t.sp = s.sp ∧ KeepsMemory s t ∧ Retires op 2 s t) ∧
  (∀ s : State, s.cfg.legal = true → s.status = .running → Readable s s.pc →
    s.mem.byteAt s.pc.toNat = 0x3E → step s = .fault (.unsupportedOpcode 0x3E s.pc))

/-- R93. In S by D2, log 12. No flag: D13, log 13. Opcode value: log 2. -/
def Obligations.StoreImmediateAtHLResult : Prop :=
  OperandFetchFaults 0x36 1 ∧
  ∀ n : Byte, encode (.ldAtHLd8 n) = [0x36, n] ∧
    ∀ s : State,
      (forbidden (s.pair .hl) = false →
        ∃ t, exec (.ldAtHLd8 n) s = .next t ∧
          (s.mem.wf = true → t.mem.byteAt (s.pair .hl).toNat = n) ∧ KeepsMemoryBut (s.pair .hl) s t ∧
          t.f = s.f ∧ KeepsRegsBut [] s t ∧ t.sp = s.sp ∧ Retires 0x36 2 s t) ∧
      (forbidden (s.pair .hl) = true →
        exec (.ldAtHLd8 n) s = .fault (.forbiddenMemoryAccess (s.pair .hl) .write))

/-- R94: HL is decremented first, modulo 2^16, and A is stored at the new HL; a fault undoes both. The order
is C7, log 10. No flag: D13, log 13. Opcode value: log 2. -/
def Obligations.StoreAAtDecrementedHLResult : Prop :=
  encode .ldAtHLDecA = [0x32] ∧
  ∀ s : State,
    (forbidden (s.pair .hl - 1) = false →
      ∃ t, exec .ldAtHLDecA s = .next t ∧ t.pair .hl = s.pair .hl - 1 ∧
        (s.mem.wf = true → t.mem.byteAt (s.pair .hl - 1).toNat = s.a) ∧
        KeepsMemoryBut (s.pair .hl - 1) s t ∧ t.f = s.f ∧ KeepsRegsBut [.h, .l] s t ∧ t.sp = s.sp ∧
        Retires 0x32 1 s t) ∧
    (forbidden (s.pair .hl - 1) = true →
      exec .ldAtHLDecA s = .fault (.forbiddenMemoryAccess (s.pair .hl - 1) .write)) ∧
    (OpcodeFound 0x32 s → forbidden (s.pair .hl - 1) = true → (afterStep s).pair .hl = s.pair .hl)

/-! ## 8-bit increment and decrement -/

/-- R100: the carry is kept. Opcode values: log 2. -/
def Obligations.IncrementRegisterResult : Prop :=
  ∀ i op r, (i, op, r) ∈
      [(Instr.incB, (0x04 : Byte), Reg8.b), (.incC, 0x0C, .c), (.incD, 0x14, .d), (.incE, 0x1C, .e),
       (.incH, 0x24, .h), (.incL, 0x2C, .l), (.incA, 0x3C, .a)] →
    encode i = [op] ∧
    ∀ s, ∃ t, exec i s = .next t ∧ t.reg r = s.reg r + 1 ∧ IncFlags (s.reg r) s t ∧
      KeepsRegsBut [r] s t ∧ t.sp = s.sp ∧ KeepsMemory s t ∧ Retires op 1 s t

/-- R102: the carry is kept. Opcode values: log 2. -/
def Obligations.DecrementRegisterResult : Prop :=
  ∀ i op r, (i, op, r) ∈
      [(Instr.decB, (0x05 : Byte), Reg8.b), (.decC, 0x0D, .c), (.decD, 0x15, .d), (.decE, 0x1D, .e),
       (.decH, 0x25, .h), (.decL, 0x2D, .l), (.decA, 0x3D, .a)] →
    encode i = [op] ∧
    ∀ s, ∃ t, exec i s = .next t ∧ t.reg r = s.reg r - 1 ∧ DecFlags (s.reg r) s t ∧
      KeepsRegsBut [r] s t ∧ t.sp = s.sp ∧ KeepsMemory s t ∧ Retires op 1 s t

/-- R101. Opcode value: log 2; order of checks: log 9. -/
def Obligations.IncrementByteAtHLResult : Prop :=
  encode .incAtHL = [0x34] ∧ UpdatesByteAtHL .incAtHL 0x34 (fun n => n + 1) IncFlags

/-- R103. Opcode value: log 2; order of checks: log 9. -/
def Obligations.DecrementByteAtHLResult : Prop :=
  encode .decAtHL = [0x35] ∧ UpdatesByteAtHL .decAtHL 0x35 (fun n => n - 1) DecFlags

/-! ## 8-bit arithmetic and logic -/

/-- R104, R105, R106. Opcode values: log 2. -/
def Obligations.AddToAResult : Prop :=
  (∀ i op r, (i, op, r) ∈
      [(Instr.addAB, (0x80 : Byte), Reg8.b), (.addAC, 0x81, .c), (.addAD, 0x82, .d), (.addAE, 0x83, .e),
       (.addAH, 0x84, .h), (.addAL, 0x85, .l), (.addAA, 0x87, .a)] →
    encode i = [op] ∧ ∀ s, ∃ t, exec i s = .next t ∧ AddedToA (s.reg r) s t ∧ Retires op 1 s t) ∧
  encode .addAAtHL = [0x86] ∧ ReadsByteAtHL .addAAtHL 0x86 AddedToA ∧
  OperandFetchFaults 0xC6 1 ∧
  ∀ n : Byte, encode (.addAd8 n) = [0xC6, n] ∧
    ∀ s, ∃ t, exec (.addAd8 n) s = .next t ∧ AddedToA n s t ∧ Retires 0xC6 2 s t

/-- R107, R108, R109. Opcode values: log 2. -/
def Obligations.SubtractFromAResult : Prop :=
  (∀ i op r, (i, op, r) ∈
      [(Instr.subB, (0x90 : Byte), Reg8.b), (.subC, 0x91, .c), (.subD, 0x92, .d), (.subE, 0x93, .e),
       (.subH, 0x94, .h), (.subL, 0x95, .l), (.subA, 0x97, .a)] →
    encode i = [op] ∧ ∀ s, ∃ t, exec i s = .next t ∧ SubtractedFromA (s.reg r) s t ∧ Retires op 1 s t) ∧
  encode .subAtHL = [0x96] ∧ ReadsByteAtHL .subAtHL 0x96 SubtractedFromA ∧
  OperandFetchFaults 0xD6 1 ∧
  ∀ n : Byte, encode (.subd8 n) = [0xD6, n] ∧
    ∀ s, ∃ t, exec (.subd8 n) s = .next t ∧ SubtractedFromA n s t ∧ Retires 0xD6 2 s t

/-- R110, R111, R112. Opcode values: log 2. -/
def Obligations.OrIntoAResult : Prop :=
  (∀ i op r, (i, op, r) ∈
      [(Instr.orB, (0xB0 : Byte), Reg8.b), (.orC, 0xB1, .c), (.orD, 0xB2, .d), (.orE, 0xB3, .e),
       (.orH, 0xB4, .h), (.orL, 0xB5, .l), (.orA, 0xB7, .a)] →
    encode i = [op] ∧ ∀ s, ∃ t, exec i s = .next t ∧ OredIntoA (s.reg r) s t ∧ Retires op 1 s t) ∧
  encode .orAtHL = [0xB6] ∧ ReadsByteAtHL .orAtHL 0xB6 OredIntoA ∧
  OperandFetchFaults 0xF6 1 ∧
  ∀ n : Byte, encode (.ord8 n) = [0xF6, n] ∧
    ∀ s, ∃ t, exec (.ord8 n) s = .next t ∧ OredIntoA n s t ∧ Retires 0xF6 2 s t

/-- R113, R114, R115: A is not written. Opcode values: log 2. -/
def Obligations.CompareWithAResult : Prop :=
  (∀ i op r, (i, op, r) ∈
      [(Instr.cpB, (0xB8 : Byte), Reg8.b), (.cpC, 0xB9, .c), (.cpD, 0xBA, .d), (.cpE, 0xBB, .e),
       (.cpH, 0xBC, .h), (.cpL, 0xBD, .l), (.cpA, 0xBF, .a)] →
    encode i = [op] ∧ ∀ s, ∃ t, exec i s = .next t ∧ ComparedWithA (s.reg r) s t ∧ Retires op 1 s t) ∧
  encode .cpAtHL = [0xBE] ∧ ReadsByteAtHL .cpAtHL 0xBE ComparedWithA ∧
  OperandFetchFaults 0xFE 1 ∧
  ∀ n : Byte, encode (.cpd8 n) = [0xFE, n] ∧
    ∀ s, ∃ t, exec (.cpd8 n) s = .next t ∧ ComparedWithA n s t ∧ Retires 0xFE 2 s t

/-- R116: the result does not depend on A. Opcode value: log 2. -/
def Obligations.XorAResult : Prop :=
  encode .xorA = [0xAF] ∧
  ∀ s, ∃ t, exec .xorA s = .next t ∧ t.a = 0x00 ∧ FlagsAre t true false false false ∧ KeepsLowF s t ∧
    KeepsRegsBut [.a] s t ∧ t.sp = s.sp ∧ KeepsMemory s t ∧ Retires 0xAF 1 s t

/-! ## 16-bit arithmetic -/

/-- R120, R121: modulo 2^16, no flag. No flag: D12, log 13. Opcode values: log 2. -/
def Obligations.IncrementAndDecrementPairResult : Prop :=
  (∀ i op p written, (i, op, p, written) ∈
      [(Instr.incBC, (0x03 : Byte), Reg16.bc, [Reg8.b, Reg8.c]), (.incDE, 0x13, .de, [.d, .e]),
       (.incHL, 0x23, .hl, [.h, .l]), (.incSP, 0x33, .sp, [])] →
    encode i = [op] ∧
    ∀ s : State, ∃ t, exec i s = .next t ∧ (t.pair p).toNat = ((s.pair p).toNat + 1) % 65536 ∧ t.f = s.f ∧
      KeepsRegsBut written s t ∧ (p ≠ .sp → t.sp = s.sp) ∧ KeepsMemory s t ∧ Retires op 1 s t) ∧
  (∀ i op p written, (i, op, p, written) ∈
      [(Instr.decBC, (0x0B : Byte), Reg16.bc, [Reg8.b, Reg8.c]), (.decDE, 0x1B, .de, [.d, .e]),
       (.decHL, 0x2B, .hl, [.h, .l]), (.decSP, 0x3B, .sp, [])] →
    encode i = [op] ∧
    ∀ s : State, ∃ t, exec i s = .next t ∧ (t.pair p).toNat = ((s.pair p).toNat + 65535) % 65536 ∧
      t.f = s.f ∧ KeepsRegsBut written s t ∧ (p ≠ .sp → t.sp = s.sp) ∧ KeepsMemory s t ∧ Retires op 1 s t)

/-- R122: half carry out of bit 11, carry out of bit 15, Z untouched. Bit 11: C1, log 11. Opcode values: log
2. -/
def Obligations.AddPairToHLResult : Prop :=
  ∀ i op p, (i, op, p) ∈
      [(Instr.addHLBC, (0x09 : Byte), Reg16.bc), (.addHLDE, 0x19, .de), (.addHLHL, 0x29, .hl),
       (.addHLSP, 0x39, .sp)] →
    encode i = [op] ∧
    ∀ s : State, ∃ t, exec i s = .next t ∧ t.pair .hl = s.pair .hl + s.pair p ∧
      FlagsAre t (s.flag .z) false
        (decide ((s.pair .hl).toNat % 4096 + (s.pair p).toNat % 4096 > 4095))
        (decide ((s.pair .hl).toNat + (s.pair p).toNat > 65535)) ∧
      KeepsLowF s t ∧ KeepsRegsBut [.h, .l] s t ∧ t.sp = s.sp ∧ KeepsMemory s t ∧ Retires op 1 s t

/-! ## Rotates -/

/-- R130, R131: bit by bit; Z is cleared and not computed. Opcode values: log 2. -/
def Obligations.RotateAccumulatorResult : Prop :=
  encode .rlca = [0x07] ∧ encode .rra = [0x1F] ∧
  (∀ s, ∃ t, exec .rlca s = .next t ∧ t.a.getLsbD 0 = s.a.getLsbD 7 ∧
    (∀ j, j < 7 → t.a.getLsbD (j + 1) = s.a.getLsbD j) ∧
    FlagsAre t false false false (s.a.getLsbD 7) ∧ KeepsLowF s t ∧ KeepsRegsBut [.a] s t ∧ t.sp = s.sp ∧
    KeepsMemory s t ∧ Retires 0x07 1 s t) ∧
  (∀ s, ∃ t, exec .rra s = .next t ∧ t.a.getLsbD 7 = s.flag .c ∧
    (∀ j, j < 7 → t.a.getLsbD j = s.a.getLsbD (j + 1)) ∧
    FlagsAre t false false false (s.a.getLsbD 0) ∧ KeepsLowF s t ∧ KeepsRegsBut [.a] s t ∧ t.sp = s.sp ∧
    KeepsMemory s t ∧ Retires 0x1F 1 s t)

/-! ## Jumps -/

/-- R140, R142: the relative jump counts from the address after the instruction; the absolute one goes to
its operand. JP a16 is in S by D3, log 12. No flag: D13, log 13. Opcode values: log 2. -/
def Obligations.UnconditionalJumpResult : Prop :=
  OperandFetchFaults 0x18 1 ∧ OperandFetchFaults 0xC3 2 ∧
  (∀ e : Byte, encode (.jr e) = [0x18, e] ∧
    ∀ s, ∃ t, exec (.jr e) s = .next t ∧
      ((t.pc.toNat : Int) = ((s.pc.toNat : Int) + 2 + e.toInt) % 65536) ∧
      JumpsTo t.pc (s.cfg.cycles 0x18) s t ∧ KeepsRegsAndMemory s t) ∧
  (∀ nn : Word, encode (.jp nn) = [0xC3, nn.extractLsb' 0 8, nn.extractLsb' 8 8] ∧
    ∀ s, ∃ t, exec (.jp nn) s = .next t ∧ JumpsTo nn (s.cfg.cycles 0xC3) s t ∧ KeepsRegsAndMemory s t)

/-- R139, R141: the pc moves past the operand, taken or not; only a taken jump adds the offset and returns
the taken count. No flag: D13, log 13. Opcode values: log 2. -/
def Obligations.ConditionalRelativeJumpResult : Prop :=
  ∀ make op fl want, (make, op, fl, want) ∈
      [(Instr.jrNZ, (0x20 : Byte), Flag.z, false), (.jrZ, 0x28, .z, true), (.jrNC, 0x30, .c, false),
       (.jrC, 0x38, .c, true)] →
    OperandFetchFaults op 1 ∧
    ∀ e : Byte, encode (make e) = [op, e] ∧
      ∀ s : State,
        (s.flag fl = want → ∃ t, exec (make e) s = .next t ∧
          ((t.pc.toNat : Int) = ((s.pc.toNat : Int) + 2 + e.toInt) % 65536) ∧
          JumpsTo t.pc (s.cfg.branchCycles op true) s t ∧ KeepsRegsAndMemory s t) ∧
        (s.flag fl ≠ want → ∃ t, exec (make e) s = .next t ∧
          JumpsTo (s.pc + 2) (s.cfg.branchCycles op false) s t ∧ KeepsRegsAndMemory s t)

/-- R139, R143: the pc moves past the operand, taken or not; only a taken jump goes to it and returns the
taken count. No flag: D13, log 13. Opcode values: log 2. -/
def Obligations.ConditionalAbsoluteJumpResult : Prop :=
  ∀ make op fl want, (make, op, fl, want) ∈
      [(Instr.jpNZ, (0xC2 : Byte), Flag.z, false), (.jpZ, 0xCA, .z, true), (.jpNC, 0xD2, .c, false),
       (.jpC, 0xDA, .c, true)] →
    OperandFetchFaults op 2 ∧
    ∀ nn : Word, encode (make nn) = [op, nn.extractLsb' 0 8, nn.extractLsb' 8 8] ∧
      ∀ s : State,
        (s.flag fl = want → ∃ t, exec (make nn) s = .next t ∧
          JumpsTo nn (s.cfg.branchCycles op true) s t ∧ KeepsRegsAndMemory s t) ∧
        (s.flag fl ≠ want → ∃ t, exec (make nn) s = .next t ∧
          JumpsTo (s.pc + 3) (s.cfg.branchCycles op false) s t ∧ KeepsRegsAndMemory s t)
end

