-- ==== Sys2Proof/Laws/Decode.lean ====
section
/-! SUPPORT. What the rows of the opcode map say: each row's instruction is encoded with the row's opcode
and its operand bytes. -/

namespace Sys2Proof

/-- The row's instruction, whatever its operand, is encoded as `op` and its operand bytes. -/
def OpcodeRow.Fits (op : Byte) : OpcodeRow → Prop
  | .f1 i => encode i = [op]
  | .f2 make => ∀ n, encode (make n) = [op, n]
  | .f3 make => ∀ nn, encode (make nn) = op :: wordOperand nn

theorem opcodeRow_fits_quadrant0 (k : Nat) (hk : k < 64) (row : OpcodeRow)
    (hrow : opcodeRow (BitVec.ofNat 8 k) = some row) : row.Fits (BitVec.ofNat 8 k) := by
  interval_cases k <;> cases hrow <;> first | rfl | exact fun _ => rfl

theorem opcodeRow_fits_quadrant2 (k : Nat) (hlo : 128 ≤ k) (hk : k < 192) (row : OpcodeRow)
    (hrow : opcodeRow (BitVec.ofNat 8 k) = some row) : row.Fits (BitVec.ofNat 8 k) := by
  interval_cases k <;> cases hrow <;> rfl

theorem opcodeRow_fits_quadrant3 (k : Nat) (hlo : 192 ≤ k) (hk : k < 256) (row : OpcodeRow)
    (hrow : opcodeRow (BitVec.ofNat 8 k) = some row) : row.Fits (BitVec.ofNat 8 k) := by
  interval_cases k <;> cases hrow <;> first | rfl | exact fun _ => rfl

/-- Every row of the map fits its opcode. -/
theorem opcodeRow_fits {op : Byte} {row : OpcodeRow} (hrow : opcodeRow op = some row) : row.Fits op := by
  have hlt := op.isLt
  by_cases h1 : 64 ≤ op.toNat ∧ op.toNat < 128
  · have hx : fieldX op = 1 := by
      unfold fieldX
      omega
    simp [opcodeRow, hx] at hrow
  · have hop : op = BitVec.ofNat 8 op.toNat := by simp
    rw [hop] at hrow ⊢
    by_cases h0 : op.toNat < 64
    · exact opcodeRow_fits_quadrant0 _ h0 _ hrow
    by_cases h2 : op.toNat < 192
    · exact opcodeRow_fits_quadrant2 _ (by omega) h2 _ hrow
    · exact opcodeRow_fits_quadrant3 _ (by omega) hlt _ hrow

end Sys2Proof
end

