-- ==== Sys2Proof/Laws/State.lean ====
section
/-! SUPPORT. One lemma per field per update of the state, so that no proof unfolds a record update. -/

namespace Sys2Proof.Machine

variable (s : State)

/-! ### advance -/

@[simp] theorem advance_a (n : Nat) : (s.advance n).a = s.a := rfl
@[simp] theorem advance_f (n : Nat) : (s.advance n).f = s.f := rfl
@[simp] theorem advance_b (n : Nat) : (s.advance n).b = s.b := rfl
@[simp] theorem advance_c (n : Nat) : (s.advance n).c = s.c := rfl
@[simp] theorem advance_d (n : Nat) : (s.advance n).d = s.d := rfl
@[simp] theorem advance_e (n : Nat) : (s.advance n).e = s.e := rfl
@[simp] theorem advance_h (n : Nat) : (s.advance n).h = s.h := rfl
@[simp] theorem advance_l (n : Nat) : (s.advance n).l = s.l := rfl
@[simp] theorem advance_sp (n : Nat) : (s.advance n).sp = s.sp := rfl
@[simp] theorem advance_pc (n : Nat) : (s.advance n).pc = s.pc + BitVec.ofNat 16 n := rfl
@[simp] theorem advance_mem (n : Nat) : (s.advance n).mem = s.mem := rfl
@[simp] theorem advance_status (n : Nat) : (s.advance n).status = s.status := rfl
@[simp] theorem advance_cfg (n : Nat) : (s.advance n).cfg = s.cfg := rfl
@[simp] theorem advance_cyclesReturned (n : Nat) : (s.advance n).cyclesReturned = s.cyclesReturned := rfl
@[simp] theorem advance_reg (n : Nat) (r : Reg8) : (s.advance n).reg r = s.reg r := by cases r <;> rfl
@[simp] theorem advance_pair (n : Nat) (p : Reg16) : (s.advance n).pair p = s.pair p := by cases p <;> rfl
@[simp] theorem advance_flag (n : Nat) (fl : Flag) : (s.advance n).flag fl = s.flag fl := rfl
@[simp] theorem advance_condition (n : Nat) (cc : Cond) : (s.advance n).condition cc = s.condition cc := by
  cases cc <;> rfl

/-! ### setFlag -/

@[simp] theorem setFlag_a (fl : Flag) (v : Bool) : (s.setFlag fl v).a = s.a := rfl
@[simp] theorem setFlag_b (fl : Flag) (v : Bool) : (s.setFlag fl v).b = s.b := rfl
@[simp] theorem setFlag_c (fl : Flag) (v : Bool) : (s.setFlag fl v).c = s.c := rfl
@[simp] theorem setFlag_d (fl : Flag) (v : Bool) : (s.setFlag fl v).d = s.d := rfl
@[simp] theorem setFlag_e (fl : Flag) (v : Bool) : (s.setFlag fl v).e = s.e := rfl
@[simp] theorem setFlag_h (fl : Flag) (v : Bool) : (s.setFlag fl v).h = s.h := rfl
@[simp] theorem setFlag_l (fl : Flag) (v : Bool) : (s.setFlag fl v).l = s.l := rfl
@[simp] theorem setFlag_sp (fl : Flag) (v : Bool) : (s.setFlag fl v).sp = s.sp := rfl
@[simp] theorem setFlag_pc (fl : Flag) (v : Bool) : (s.setFlag fl v).pc = s.pc := rfl
@[simp] theorem setFlag_mem (fl : Flag) (v : Bool) : (s.setFlag fl v).mem = s.mem := rfl
@[simp] theorem setFlag_status (fl : Flag) (v : Bool) : (s.setFlag fl v).status = s.status := rfl
@[simp] theorem setFlag_cfg (fl : Flag) (v : Bool) : (s.setFlag fl v).cfg = s.cfg := rfl
@[simp] theorem setFlag_cyclesReturned (fl : Flag) (v : Bool) : (s.setFlag fl v).cyclesReturned = s.cyclesReturned := rfl
@[simp] theorem setFlag_reg (fl : Flag) (v : Bool) (r : Reg8) : (s.setFlag fl v).reg r = s.reg r := by
  cases r <;> rfl
@[simp] theorem setFlag_pair (fl : Flag) (v : Bool) (p : Reg16) : (s.setFlag fl v).pair p = s.pair p := by
  cases p <;> rfl

/-! ### Groups of flag writes -/

@[simp] theorem setFlags_a (z n h c : Bool) : (s.setFlags z n h c).a = s.a := rfl
@[simp] theorem setFlags_b (z n h c : Bool) : (s.setFlags z n h c).b = s.b := rfl
@[simp] theorem setFlags_c (z n h c : Bool) : (s.setFlags z n h c).c = s.c := rfl
@[simp] theorem setFlags_d (z n h c : Bool) : (s.setFlags z n h c).d = s.d := rfl
@[simp] theorem setFlags_e (z n h c : Bool) : (s.setFlags z n h c).e = s.e := rfl
@[simp] theorem setFlags_h (z n h c : Bool) : (s.setFlags z n h c).h = s.h := rfl
@[simp] theorem setFlags_l (z n h c : Bool) : (s.setFlags z n h c).l = s.l := rfl
@[simp] theorem setFlags_sp (z n h c : Bool) : (s.setFlags z n h c).sp = s.sp := rfl
@[simp] theorem setFlags_pc (z n h c : Bool) : (s.setFlags z n h c).pc = s.pc := rfl
@[simp] theorem setFlags_mem (z n h c : Bool) : (s.setFlags z n h c).mem = s.mem := rfl
@[simp] theorem setFlags_status (z n h c : Bool) : (s.setFlags z n h c).status = s.status := rfl
@[simp] theorem setFlags_cfg (z n h c : Bool) : (s.setFlags z n h c).cfg = s.cfg := rfl
@[simp] theorem setFlags_cyclesReturned (z n h c : Bool) : (s.setFlags z n h c).cyclesReturned = s.cyclesReturned := rfl
@[simp] theorem setFlags_reg (z n h c : Bool) (q : Reg8) : (s.setFlags z n h c).reg q = s.reg q := by cases q <;> rfl
@[simp] theorem setFlags_pair (z n h c : Bool) (p : Reg16) : (s.setFlags z n h c).pair p = s.pair p := by cases p <;> rfl

@[simp] theorem setAluFlags_a (r : Alu8) (n : Bool) : (s.setAluFlags r n).a = s.a := rfl
@[simp] theorem setAluFlags_b (r : Alu8) (n : Bool) : (s.setAluFlags r n).b = s.b := rfl
@[simp] theorem setAluFlags_c (r : Alu8) (n : Bool) : (s.setAluFlags r n).c = s.c := rfl
@[simp] theorem setAluFlags_d (r : Alu8) (n : Bool) : (s.setAluFlags r n).d = s.d := rfl
@[simp] theorem setAluFlags_e (r : Alu8) (n : Bool) : (s.setAluFlags r n).e = s.e := rfl
@[simp] theorem setAluFlags_h (r : Alu8) (n : Bool) : (s.setAluFlags r n).h = s.h := rfl
@[simp] theorem setAluFlags_l (r : Alu8) (n : Bool) : (s.setAluFlags r n).l = s.l := rfl
@[simp] theorem setAluFlags_sp (r : Alu8) (n : Bool) : (s.setAluFlags r n).sp = s.sp := rfl
@[simp] theorem setAluFlags_pc (r : Alu8) (n : Bool) : (s.setAluFlags r n).pc = s.pc := rfl
@[simp] theorem setAluFlags_mem (r : Alu8) (n : Bool) : (s.setAluFlags r n).mem = s.mem := rfl
@[simp] theorem setAluFlags_status (r : Alu8) (n : Bool) : (s.setAluFlags r n).status = s.status := rfl
@[simp] theorem setAluFlags_cfg (r : Alu8) (n : Bool) : (s.setAluFlags r n).cfg = s.cfg := rfl
@[simp] theorem setAluFlags_cyclesReturned (r : Alu8) (n : Bool) : (s.setAluFlags r n).cyclesReturned = s.cyclesReturned := rfl
@[simp] theorem setAluFlags_reg (r : Alu8) (n : Bool) (q : Reg8) : (s.setAluFlags r n).reg q = s.reg q := by cases q <;> rfl
@[simp] theorem setAluFlags_pair (r : Alu8) (n : Bool) (p : Reg16) : (s.setAluFlags r n).pair p = s.pair p := by cases p <;> rfl

@[simp] theorem setStepFlags_a (r : Step8) (n : Bool) : (s.setStepFlags r n).a = s.a := rfl
@[simp] theorem setStepFlags_b (r : Step8) (n : Bool) : (s.setStepFlags r n).b = s.b := rfl
@[simp] theorem setStepFlags_c (r : Step8) (n : Bool) : (s.setStepFlags r n).c = s.c := rfl
@[simp] theorem setStepFlags_d (r : Step8) (n : Bool) : (s.setStepFlags r n).d = s.d := rfl
@[simp] theorem setStepFlags_e (r : Step8) (n : Bool) : (s.setStepFlags r n).e = s.e := rfl
@[simp] theorem setStepFlags_h (r : Step8) (n : Bool) : (s.setStepFlags r n).h = s.h := rfl
@[simp] theorem setStepFlags_l (r : Step8) (n : Bool) : (s.setStepFlags r n).l = s.l := rfl
@[simp] theorem setStepFlags_sp (r : Step8) (n : Bool) : (s.setStepFlags r n).sp = s.sp := rfl
@[simp] theorem setStepFlags_pc (r : Step8) (n : Bool) : (s.setStepFlags r n).pc = s.pc := rfl
@[simp] theorem setStepFlags_mem (r : Step8) (n : Bool) : (s.setStepFlags r n).mem = s.mem := rfl
@[simp] theorem setStepFlags_status (r : Step8) (n : Bool) : (s.setStepFlags r n).status = s.status := rfl
@[simp] theorem setStepFlags_cfg (r : Step8) (n : Bool) : (s.setStepFlags r n).cfg = s.cfg := rfl
@[simp] theorem setStepFlags_cyclesReturned (r : Step8) (n : Bool) : (s.setStepFlags r n).cyclesReturned = s.cyclesReturned := rfl
@[simp] theorem setStepFlags_reg (r : Step8) (n : Bool) (q : Reg8) : (s.setStepFlags r n).reg q = s.reg q := by cases q <;> rfl
@[simp] theorem setStepFlags_pair (r : Step8) (n : Bool) (p : Reg16) : (s.setStepFlags r n).pair p = s.pair p := by cases p <;> rfl

/-! ### setReg -/

@[simp] theorem setReg_f (r : Reg8) (v : Byte) : (s.setReg r v).f = s.f := by cases r <;> rfl
@[simp] theorem setReg_sp (r : Reg8) (v : Byte) : (s.setReg r v).sp = s.sp := by cases r <;> rfl
@[simp] theorem setReg_pc (r : Reg8) (v : Byte) : (s.setReg r v).pc = s.pc := by cases r <;> rfl
@[simp] theorem setReg_mem (r : Reg8) (v : Byte) : (s.setReg r v).mem = s.mem := by cases r <;> rfl
@[simp] theorem setReg_status (r : Reg8) (v : Byte) : (s.setReg r v).status = s.status := by cases r <;> rfl
@[simp] theorem setReg_cfg (r : Reg8) (v : Byte) : (s.setReg r v).cfg = s.cfg := by cases r <;> rfl
@[simp] theorem setReg_cyclesReturned (r : Reg8) (v : Byte) : (s.setReg r v).cyclesReturned = s.cyclesReturned := by cases r <;> rfl
@[simp] theorem setReg_flag (r : Reg8) (v : Byte) (fl : Flag) : (s.setReg r v).flag fl = s.flag fl := by
  cases r <;> rfl
@[simp] theorem setReg_reg_same (r : Reg8) (v : Byte) : (s.setReg r v).reg r = v := by cases r <;> rfl
theorem setReg_reg_ne {r q : Reg8} (v : Byte) (hne : q ≠ r) : (s.setReg r v).reg q = s.reg q := by
  cases r <;> cases q <;> first | rfl | exact absurd rfl hne

/-! ### setPair -/

@[simp] theorem setPair_a (p : Reg16) (v : Word) : (s.setPair p v).a = s.a := by cases p <;> rfl
@[simp] theorem setPair_f (p : Reg16) (v : Word) : (s.setPair p v).f = s.f := by cases p <;> rfl
@[simp] theorem setPair_pc (p : Reg16) (v : Word) : (s.setPair p v).pc = s.pc := by cases p <;> rfl
@[simp] theorem setPair_mem (p : Reg16) (v : Word) : (s.setPair p v).mem = s.mem := by cases p <;> rfl
@[simp] theorem setPair_status (p : Reg16) (v : Word) : (s.setPair p v).status = s.status := by cases p <;> rfl
@[simp] theorem setPair_cfg (p : Reg16) (v : Word) : (s.setPair p v).cfg = s.cfg := by cases p <;> rfl
@[simp] theorem setPair_cyclesReturned (p : Reg16) (v : Word) : (s.setPair p v).cyclesReturned = s.cyclesReturned := by cases p <;> rfl
@[simp] theorem setPair_flag (p : Reg16) (v : Word) (fl : Flag) : (s.setPair p v).flag fl = s.flag fl := by
  cases p <;> rfl

/-! ### takeFault -/

@[simp] theorem takeFault_a (ft : Fault) : (s.takeFault ft).a = s.a := rfl
@[simp] theorem takeFault_f (ft : Fault) : (s.takeFault ft).f = s.f := rfl
@[simp] theorem takeFault_b (ft : Fault) : (s.takeFault ft).b = s.b := rfl
@[simp] theorem takeFault_c (ft : Fault) : (s.takeFault ft).c = s.c := rfl
@[simp] theorem takeFault_d (ft : Fault) : (s.takeFault ft).d = s.d := rfl
@[simp] theorem takeFault_e (ft : Fault) : (s.takeFault ft).e = s.e := rfl
@[simp] theorem takeFault_h (ft : Fault) : (s.takeFault ft).h = s.h := rfl
@[simp] theorem takeFault_l (ft : Fault) : (s.takeFault ft).l = s.l := rfl
@[simp] theorem takeFault_sp (ft : Fault) : (s.takeFault ft).sp = s.sp := rfl
@[simp] theorem takeFault_pc (ft : Fault) : (s.takeFault ft).pc = s.pc := rfl
@[simp] theorem takeFault_mem (ft : Fault) : (s.takeFault ft).mem = s.mem := rfl
@[simp] theorem takeFault_status (ft : Fault) : (s.takeFault ft).status = .faulted ft := rfl
@[simp] theorem takeFault_cfg (ft : Fault) : (s.takeFault ft).cfg = s.cfg := rfl
@[simp] theorem takeFault_cyclesReturned (ft : Fault) : (s.takeFault ft).cyclesReturned = none := rfl

/-! ### The record updates the meanings write -/

@[simp] theorem with_a_a (v : Byte) : ({ s with a := v } : State).a = v := rfl
@[simp] theorem with_a_f (v : Byte) : ({ s with a := v } : State).f = s.f := rfl
@[simp] theorem with_a_b (v : Byte) : ({ s with a := v } : State).b = s.b := rfl
@[simp] theorem with_a_c (v : Byte) : ({ s with a := v } : State).c = s.c := rfl
@[simp] theorem with_a_d (v : Byte) : ({ s with a := v } : State).d = s.d := rfl
@[simp] theorem with_a_e (v : Byte) : ({ s with a := v } : State).e = s.e := rfl
@[simp] theorem with_a_h (v : Byte) : ({ s with a := v } : State).h = s.h := rfl
@[simp] theorem with_a_l (v : Byte) : ({ s with a := v } : State).l = s.l := rfl
@[simp] theorem with_a_sp (v : Byte) : ({ s with a := v } : State).sp = s.sp := rfl
@[simp] theorem with_a_pc (v : Byte) : ({ s with a := v } : State).pc = s.pc := rfl
@[simp] theorem with_a_mem (v : Byte) : ({ s with a := v } : State).mem = s.mem := rfl
@[simp] theorem with_a_status (v : Byte) : ({ s with a := v } : State).status = s.status := rfl
@[simp] theorem with_a_cfg (v : Byte) : ({ s with a := v } : State).cfg = s.cfg := rfl
@[simp] theorem with_a_cyclesReturned (v : Byte) : ({ s with a := v } : State).cyclesReturned = s.cyclesReturned := rfl
@[simp] theorem with_a_flag (v : Byte) (fl : Flag) : ({ s with a := v } : State).flag fl = s.flag fl := rfl

@[simp] theorem with_mem_a (m : Memory) : ({ s with mem := m } : State).a = s.a := rfl
@[simp] theorem with_mem_f (m : Memory) : ({ s with mem := m } : State).f = s.f := rfl
@[simp] theorem with_mem_b (m : Memory) : ({ s with mem := m } : State).b = s.b := rfl
@[simp] theorem with_mem_c (m : Memory) : ({ s with mem := m } : State).c = s.c := rfl
@[simp] theorem with_mem_d (m : Memory) : ({ s with mem := m } : State).d = s.d := rfl
@[simp] theorem with_mem_e (m : Memory) : ({ s with mem := m } : State).e = s.e := rfl
@[simp] theorem with_mem_h (m : Memory) : ({ s with mem := m } : State).h = s.h := rfl
@[simp] theorem with_mem_l (m : Memory) : ({ s with mem := m } : State).l = s.l := rfl
@[simp] theorem with_mem_sp (m : Memory) : ({ s with mem := m } : State).sp = s.sp := rfl
@[simp] theorem with_mem_pc (m : Memory) : ({ s with mem := m } : State).pc = s.pc := rfl
@[simp] theorem with_mem_mem (m : Memory) : ({ s with mem := m } : State).mem = m := rfl
@[simp] theorem with_mem_status (m : Memory) : ({ s with mem := m } : State).status = s.status := rfl
@[simp] theorem with_mem_cfg (m : Memory) : ({ s with mem := m } : State).cfg = s.cfg := rfl
@[simp] theorem with_mem_cyclesReturned (m : Memory) : ({ s with mem := m } : State).cyclesReturned = s.cyclesReturned := rfl
@[simp] theorem with_mem_reg (m : Memory) (r : Reg8) : ({ s with mem := m } : State).reg r = s.reg r := by
  cases r <;> rfl
@[simp] theorem with_mem_pair (m : Memory) (p : Reg16) : ({ s with mem := m } : State).pair p = s.pair p := by
  cases p <;> rfl
@[simp] theorem with_mem_flag (m : Memory) (fl : Flag) : ({ s with mem := m } : State).flag fl = s.flag fl := rfl

@[simp] theorem with_pc_a (w : Word) : ({ s with pc := w } : State).a = s.a := rfl
@[simp] theorem with_pc_f (w : Word) : ({ s with pc := w } : State).f = s.f := rfl
@[simp] theorem with_pc_b (w : Word) : ({ s with pc := w } : State).b = s.b := rfl
@[simp] theorem with_pc_c (w : Word) : ({ s with pc := w } : State).c = s.c := rfl
@[simp] theorem with_pc_d (w : Word) : ({ s with pc := w } : State).d = s.d := rfl
@[simp] theorem with_pc_e (w : Word) : ({ s with pc := w } : State).e = s.e := rfl
@[simp] theorem with_pc_h (w : Word) : ({ s with pc := w } : State).h = s.h := rfl
@[simp] theorem with_pc_l (w : Word) : ({ s with pc := w } : State).l = s.l := rfl
@[simp] theorem with_pc_sp (w : Word) : ({ s with pc := w } : State).sp = s.sp := rfl
@[simp] theorem with_pc_pc (w : Word) : ({ s with pc := w } : State).pc = w := rfl
@[simp] theorem with_pc_mem (w : Word) : ({ s with pc := w } : State).mem = s.mem := rfl
@[simp] theorem with_pc_status (w : Word) : ({ s with pc := w } : State).status = s.status := rfl
@[simp] theorem with_pc_cfg (w : Word) : ({ s with pc := w } : State).cfg = s.cfg := rfl
@[simp] theorem with_pc_cyclesReturned (w : Word) : ({ s with pc := w } : State).cyclesReturned = s.cyclesReturned := rfl
@[simp] theorem with_pc_reg (w : Word) (r : Reg8) : ({ s with pc := w } : State).reg r = s.reg r := by
  cases r <;> rfl
@[simp] theorem with_pc_pair (w : Word) (p : Reg16) : ({ s with pc := w } : State).pair p = s.pair p := by
  cases p <;> rfl
@[simp] theorem with_pc_flag (w : Word) (fl : Flag) : ({ s with pc := w } : State).flag fl = s.flag fl := rfl

end Sys2Proof.Machine
end

