-- ==== Sys2Proof/Laws/Flags.lean ====
section
/-! SUPPORT. What setflag and the groups of flag writes leave in F. -/

namespace Sys2Proof.Machine

variable (s : State)

/-- Any bit of F after setflag: the flag's own bit, or as before. -/
theorem setFlag_f_bit (fl : Flag) (v : Bool) (j : Nat) (hj : j < 8) :
    (s.setFlag fl v).f.getLsbD j = if j = fl.bit then v else s.f.getLsbD j := by
  have key : ∀ (f : Byte) (j : Fin 8),
      (if v then f ||| fl.mask else f &&& ~~~ fl.mask).getLsbD j =
        if (j : Nat) = fl.bit then v else f.getLsbD j := by
    cases fl <;> cases v <;> decide
  exact key s.f ⟨j, hj⟩

theorem flag_setFlag (fl g : Flag) (v : Bool) :
    (s.setFlag fl v).flag g = if g = fl then v else s.flag g := by
  unfold State.flag
  rw [setFlag_f_bit _ _ _ _ (by cases g <;> decide)]
  cases fl <;> cases g <;> rfl

@[simp] theorem flag_setFlag_same (fl : Flag) (v : Bool) : (s.setFlag fl v).flag fl = v := by
  simp [flag_setFlag]

theorem flag_setFlag_ne {fl g : Flag} (v : Bool) (hne : g ≠ fl) : (s.setFlag fl v).flag g = s.flag g := by
  simp [flag_setFlag, hne]

/-- setflag never touches bits 3..0 of F. -/
@[simp] theorem lowF_setFlag (fl : Flag) (v : Bool) :
    (s.setFlag fl v).f.extractLsb' 0 4 = s.f.extractLsb' 0 4 := by
  ext j hj
  have hbit : j ≠ fl.bit := by cases fl <;> simp [Flag.bit] <;> omega
  simpa [hj, hbit] using setFlag_f_bit s fl v j (by omega)

@[simp] theorem setFlags_flag (z n h c : Bool) (g : Flag) :
    (s.setFlags z n h c).flag g = match g with | .z => z | .n => n | .h => h | .c => c := by
  cases g <;> simp [State.setFlags, flag_setFlag]

@[simp] theorem setFlags_lowF (z n h c : Bool) :
    (s.setFlags z n h c).f.extractLsb' 0 4 = s.f.extractLsb' 0 4 := by
  simp [State.setFlags]

@[simp] theorem setAluFlags_flag (r : Alu8) (n : Bool) (g : Flag) :
    (s.setAluFlags r n).flag g =
      match g with | .z => r.result == 0 | .n => n | .h => r.halfCarry | .c => r.carry := by
  simp [State.setAluFlags]

@[simp] theorem setAluFlags_lowF (r : Alu8) (n : Bool) :
    (s.setAluFlags r n).f.extractLsb' 0 4 = s.f.extractLsb' 0 4 := by
  simp [State.setAluFlags]

@[simp] theorem setStepFlags_flag (r : Step8) (n : Bool) (g : Flag) :
    (s.setStepFlags r n).flag g =
      match g with | .z => r.zero | .n => n | .h => r.halfCarry | .c => s.flag .c := by
  cases g <;> simp [State.setStepFlags, flag_setFlag]

@[simp] theorem setStepFlags_lowF (r : Step8) (n : Bool) :
    (s.setStepFlags r n).f.extractLsb' 0 4 = s.f.extractLsb' 0 4 := by
  simp [State.setStepFlags]

end Sys2Proof.Machine
end

