-- ==== Sys2Proof/Laws/Memory.lean ====
section
/-! SUPPORT. The memory array: read after write, and every operation keeps the canonical form. -/

namespace Sys2Proof.Machine

@[simp] theorem byteAt_nil (a : Nat) : Memory.byteAt [] a = 0x00 := rfl

theorem byteAt_cons (k a : Nat) (v : Byte) (m : Memory) :
    Memory.byteAt ((k, v) :: m) a = if k = a then v else Memory.byteAt m a := rfl

theorem wfFrom_cons (low k : Nat) (v : Byte) (m : Memory) :
    Memory.wfFrom low ((k, v) :: m) = true ↔
      low ≤ k ∧ k < 0x10000 ∧ v ≠ 0x00 ∧ Memory.wfFrom (k + 1) m = true := by
  simp [Memory.wfFrom, Memory.unlisted, and_assoc]

/-- A canonical list that starts at `low` is canonical from any lower start. -/
theorem wfFrom_mono {low low' : Nat} {m : Memory} (hle : low' ≤ low) (hm : Memory.wfFrom low m = true) :
    Memory.wfFrom low' m = true := by
  cases m with
  | nil => rfl
  | cons cell rest =>
    obtain ⟨k, v⟩ := cell
    rw [wfFrom_cons] at hm ⊢
    exact ⟨hle.trans hm.1, hm.2⟩

/-- Below its start a canonical list holds nothing. -/
theorem byteAt_of_lt {low a : Nat} {m : Memory} (hm : Memory.wfFrom low m = true) (hlt : a < low) :
    Memory.byteAt m a = 0x00 := by
  induction m generalizing low with
  | nil => rfl
  | cons cell rest ih =>
    obtain ⟨k, v⟩ := cell
    rw [wfFrom_cons] at hm
    rw [byteAt_cons, if_neg (by omega)]
    exact ih hm.2.2.2 (by omega)

theorem byteAt_cell_append (a b : Nat) (v : Byte) (m : Memory) :
    Memory.byteAt (Memory.cell a v ++ m) b =
      if a = b then (if v = 0x00 then Memory.byteAt m b else v) else Memory.byteAt m b := by
  unfold Memory.cell Memory.unlisted
  by_cases hv : v = 0x00
  · simp [hv]
  · rw [if_neg hv, if_neg hv]
    exact byteAt_cons a b v m

theorem wfFrom_cell_append {low a : Nat} {v : Byte} {m : Memory} (hlow : low ≤ a) (ha : a < 0x10000)
    (hm : Memory.wfFrom (a + 1) m = true) : Memory.wfFrom low (Memory.cell a v ++ m) = true := by
  unfold Memory.cell Memory.unlisted
  by_cases hv : v = 0x00
  · simpa [hv] using wfFrom_mono (by omega) hm
  · rw [if_neg hv]
    exact (wfFrom_cons low a v m).2 ⟨hlow, ha, hv, hm⟩

/-- Reading any address after a write, in a canonical memory. -/
theorem byteAt_setByte_from {low : Nat} {m : Memory} (hm : Memory.wfFrom low m = true) (a b : Nat) (v : Byte) :
    Memory.byteAt (Memory.setByte m a v) b = if a = b then v else Memory.byteAt m b := by
  induction m generalizing low with
  | nil =>
    have := byteAt_cell_append a b v []
    by_cases hv : v = 0x00 <;> simp_all [Memory.setByte]
  | cons entry rest ih =>
    obtain ⟨k, w⟩ := entry
    rw [wfFrom_cons] at hm
    have hrest := ih hm.2.2.2
    have habsent : ∀ x, x ≤ k → Memory.byteAt rest x = 0x00 := fun x hx =>
      byteAt_of_lt hm.2.2.2 (by omega)
    unfold Memory.setByte
    split
    · rw [byteAt_cons, byteAt_cons, hrest]
      split <;> split <;> first | rfl | omega
    · split
      · rw [byteAt_cell_append, byteAt_cons]
        split
        · split
          · rw [habsent b (by omega)]; simp_all
          · rfl
        · rw [if_neg (by omega)]
      · rw [byteAt_cell_append]
        split
        · split
          · rw [byteAt_cons, if_neg (by omega), habsent b (by omega)]
            exact Eq.symm ‹v = 0x00›
          · rfl
        · rfl

/-- A write keeps the canonical form. -/
theorem wfFrom_setByte {low a : Nat} {v : Byte} {m : Memory} (hlow : low ≤ a) (ha : a < 0x10000)
    (hm : Memory.wfFrom low m = true) : Memory.wfFrom low (Memory.setByte m a v) = true := by
  induction m generalizing low with
  | nil => simpa [Memory.setByte] using wfFrom_cell_append (m := []) hlow ha rfl
  | cons entry rest ih =>
    obtain ⟨k, w⟩ := entry
    have hall := hm
    rw [wfFrom_cons] at hm
    unfold Memory.setByte
    split
    · rw [wfFrom_cons]
      exact ⟨hm.1, hm.2.1, hm.2.2.1, ih (by omega) hm.2.2.2⟩
    · split
      · exact wfFrom_cell_append hlow ha (by simp_all)
      · exact wfFrom_cell_append hlow ha ((wfFrom_cons _ _ _ _).2 ⟨by omega, hm.2⟩)

theorem byteAt_setByte_same {m : Memory} (hm : m.wf = true) (a : Nat) (v : Byte) :
    (m.setByte a v).byteAt a = v := by
  rw [byteAt_setByte_from hm, if_pos rfl]

/-- A write changes no other byte, in any list. -/
theorem byteAt_setByte_ne (m : Memory) {a b : Nat} (v : Byte) (hne : b ≠ a) :
    (m.setByte a v).byteAt b = m.byteAt b := by
  induction m with
  | nil => simpa [Memory.setByte, Ne.symm hne] using byteAt_cell_append a b v []
  | cons entry rest ih =>
    obtain ⟨k, w⟩ := entry
    unfold Memory.setByte
    split
    · rw [byteAt_cons, byteAt_cons, ih]
    · split
      · rw [byteAt_cell_append, if_neg (Ne.symm hne), byteAt_cons, if_neg (by omega)]
      · rw [byteAt_cell_append, if_neg (Ne.symm hne)]

theorem setByte_wf {m : Memory} (hm : m.wf = true) (a : Word) (v : Byte) : (m.setByte a.toNat v).wf = true :=
  wfFrom_setByte (Nat.zero_le _) a.isLt hm

/-- An array made from bytes that fit the address space is canonical. -/
theorem fromBytes_wfFrom (image : List Byte) (low : Nat) (hfit : low + image.length ≤ 0x10000) :
    Memory.wfFrom low (Memory.fromBytes low image) = true := by
  induction image generalizing low with
  | nil => rfl
  | cons v rest ih =>
    simp only [List.length_cons] at hfit
    exact wfFrom_cell_append le_rfl (by omega) (ih (low + 1) (by omega))

/-- An array made from bytes holds them from its start on, and 0x00 elsewhere. -/
theorem byteAt_fromBytes (image : List Byte) (low a : Nat) :
    Memory.byteAt (Memory.fromBytes low image) a = if low ≤ a then image.getD (a - low) 0x00 else 0x00 := by
  induction image generalizing low with
  | nil => simp [Memory.fromBytes]
  | cons v rest ih =>
    simp only [Memory.fromBytes, byteAt_cell_append, ih]
    by_cases heq : low = a
    · subst heq
      by_cases hv : v = 0 <;> simp_all
    · by_cases hle : low ≤ a
      · have hle' : low + 1 ≤ a := by omega
        have hsub : a - low = (a - (low + 1)) + 1 := by omega
        simp [heq, hle, hle', hsub]
      · have hle' : ¬low + 1 ≤ a := by omega
        simp [heq, hle, hle']

/-- The array after the loader, for an image that fits. -/
theorem byteAt_imageMemory {image : List Byte} (hfit : image.length ≤ 0x10000) (a : Nat) :
    Memory.byteAt (imageMemory image) a = image.getD a 0x00 := by
  rw [imageMemory, List.take_of_length_le hfit, byteAt_fromBytes]
  simp

theorem imageMemory_wf (image : List Byte) : (imageMemory image).wf = true :=
  fromBytes_wfFrom _ 0 (by rw [List.length_take]; omega)

theorem loadBytes_mem_wf {s : State} (hm : s.mem.wf = true) (a : Word) (bs : List Byte) :
    (s.loadBytes a bs).mem.wf = true := by
  induction bs generalizing s a with
  | nil => exact hm
  | cons v rest ih => exact ih (setByte_wf hm a v) (a + 1)

theorem reset_mem_wf : State.reset.mem.wf = true := rfl

end Sys2Proof.Machine
end

