-- ==== Sys2Proof/Laws/Ops.lean ====
section
/-! SUPPORT. One lemma per shared operation that says everything it can do. -/

namespace Sys2Proof.Machine

/-! ### The bus -/

theorem busRead_of_readable {s : State} {a : Word} (hr : s.cfg.forbiddenReadsFault = true → forbidden a = false) :
    busRead s a = .ok (s.mem.byteAt a.toNat) := by
  unfold busRead
  cases hc : s.cfg.forbiddenReadsFault <;> simp_all

theorem busRead_of_faulting {s : State} {a : Word} (hc : s.cfg.forbiddenReadsFault = true)
    (hf : forbidden a = true) : busRead s a = .error (.forbiddenMemoryAccess a .read) := by
  simp [busRead, hc, hf]

/-- A read gives the byte, or faults at the address it reads, which is then forbidden. -/
theorem busRead_cases (s : State) (a : Word) :
    (busRead s a = .ok (s.mem.byteAt a.toNat) ∧ (s.cfg.forbiddenReadsFault = true → forbidden a = false)) ∨
    (busRead s a = .error (.forbiddenMemoryAccess a .read) ∧
      s.cfg.forbiddenReadsFault = true ∧ forbidden a = true) := by
  unfold busRead
  cases hc : s.cfg.forbiddenReadsFault <;> cases hf : forbidden a <;> simp

theorem busWrite_of_allowed {s : State} {a : Word} (v : Byte) (ha : forbidden a = false) :
    busWrite s a v = .ok { s with mem := s.mem.setByte a.toNat v } := by
  simp [busWrite, ha]

theorem busWrite_of_forbidden {s : State} {a : Word} (v : Byte) (ha : forbidden a = true) :
    busWrite s a v = .error (.forbiddenMemoryAccess a .write) := by
  simp [busWrite, ha]

/-- A write changes one byte of memory at an address that is not forbidden, or faults there. -/
theorem busWrite_cases (s : State) (a : Word) (v : Byte) :
    (busWrite s a v = .ok { s with mem := s.mem.setByte a.toNat v } ∧ forbidden a = false) ∨
    (busWrite s a v = .error (.forbiddenMemoryAccess a .write) ∧ forbidden a = true) := by
  cases hf : forbidden a <;> simp [busWrite, hf]

/-! ### The end of a step -/

theorem returnCycles_next {n : Nat} {s t : State} (hnext : returnCycles n s = .next t) :
    t = { s with cyclesReturned := some n } := by
  cases hnext; rfl

theorem retire_eq (op : Byte) (n : Nat) (s : State) :
    retire op n s =
      .next { s with pc := s.pc + BitVec.ofNat 16 n, cyclesReturned := some (s.cfg.cycles op) } := rfl

/-- Retiring completes; it moves pc and sets the returned count, and nothing else changes. -/
theorem retire_spec (op : Byte) (n : Nat) (s : State) :
    ∃ t, retire op n s = .next t ∧ (∀ r, t.reg r = s.reg r) ∧ (∀ p, t.pair p = s.pair p) ∧ t.a = s.a ∧
      t.f = s.f ∧ (∀ fl, t.flag fl = s.flag fl) ∧ t.sp = s.sp ∧ t.mem = s.mem ∧
      t.pc = s.pc + BitVec.ofNat 16 n ∧ t.cyclesReturned = some (s.cfg.cycles op) ∧
      t.status = s.status ∧ t.cfg = s.cfg :=
  ⟨_, retire_eq op n s, fun r => by cases r <;> rfl, fun p => by cases p <;> rfl, rfl, rfl, fun _ => rfl,
    rfl, rfl, rfl, rfl, rfl, rfl⟩

theorem retire_next {op : Byte} {n : Nat} {s t : State} (hnext : retire op n s = .next t) :
    t = { s with pc := s.pc + BitVec.ofNat 16 n, cyclesReturned := some (s.cfg.cycles op) } := by
  rw [retire_eq] at hnext
  cases hnext; rfl

/-- A conditional jump completes; nothing but pc and the returned count changes. -/
theorem jumpWhen_eq (op : Byte) (n : Nat) (taken : Bool) (target : Word → Word) (s : State) :
    jumpWhen op n taken target s =
      .next { s with
        pc := if taken then target (s.pc + BitVec.ofNat 16 n) else s.pc + BitVec.ofNat 16 n
        cyclesReturned := some (s.cfg.branchCycles op taken) } := by
  cases taken <;> rfl

/-! ### The operand (HL) -/

/-- Reading (HL) goes on with the byte at x[HL], or faults there. -/
theorem withByteAtHL_cases (s : State) (k : Byte → Host.Outcome State Fault Refusal) :
    (withByteAtHL s k = k (s.mem.byteAt (s.pair .hl).toNat) ∧
      (s.cfg.forbiddenReadsFault = true → forbidden (s.pair .hl) = false)) ∨
    (withByteAtHL s k = .fault (.forbiddenMemoryAccess (s.pair .hl) .read) ∧
      s.cfg.forbiddenReadsFault = true ∧ forbidden (s.pair .hl) = true) := by
  unfold withByteAtHL
  rcases busRead_cases s (s.pair .hl) with ⟨hb, hr⟩ | ⟨hb, hr⟩
  · exact .inl ⟨by rw [hb], hr⟩
  · exact .inr ⟨by rw [hb], hr⟩

/-- Writing (HL) goes on with the byte stored at x[HL], or faults there. -/
theorem withStoreAtHL_cases (s : State) (v : Byte) (k : State → Host.Outcome State Fault Refusal) :
    (withStoreAtHL s v k = k { s with mem := s.mem.setByte (s.pair .hl).toNat v } ∧
      forbidden (s.pair .hl) = false) ∨
    (withStoreAtHL s v k = .fault (.forbiddenMemoryAccess (s.pair .hl) .write) ∧
      forbidden (s.pair .hl) = true) := by
  unfold withStoreAtHL
  rcases busWrite_cases s (s.pair .hl) v with ⟨hb, hr⟩ | ⟨hb, hr⟩
  · exact .inl ⟨by rw [hb], hr⟩
  · exact .inr ⟨by rw [hb], hr⟩

end Sys2Proof.Machine
end

