-- ==== Sys2Proof/Laws/Exec.lean ====
section
/-! SUPPORT. Once for all instructions: everything a completed `exec` can change and every fault it can
answer. `exec_cases` is the lemma to cite; the rest of the file proves it, a line per constructor. -/

namespace Sys2Proof.Machine

/-- Memory after `i`: as before, or one byte written at an address that is not forbidden (R41). -/
abbrev StoresAsListed (i : Instr) (s t : State) : Prop :=
  t.mem = s.mem ∨
  (((∃ n, i = .ldAtHLd8 n) ∨ i = .incAtHL ∨ i = .decAtHL) ∧ forbidden (s.pair .hl) = false ∧
    ∃ v, t.mem = s.mem.setByte (s.pair .hl).toNat v) ∨
  (i = .ldAtHLDecA ∧ forbidden (s.pair .hl - 1) = false ∧
    ∃ v, t.mem = s.mem.setByte (s.pair .hl - 1).toNat v)

/-- SP after `i`: as before, or `i` is one of the three that write it (R29). -/
abbrev WritesSPAsListed (i : Instr) (s t : State) : Prop :=
  t.sp = s.sp ∨ (∃ nn, i = .ldSPd16 nn) ∨ i = .incSP ∨ i = .decSP

/-- The count returned is the opcode's entry, the taken one only for a conditional jump (R73, R180). -/
abbrev ReturnsItsCost (i : Instr) (s t : State) : Prop :=
  ∃ taken, t.cyclesReturned = some (s.cfg.branchCycles (opcodeOf i) taken) ∧
    (taken = true → opcodeOf i ∈ conditionalJumpOpcodes)

/-- Everything a completed instruction can have done outside A to L, Z, N, H, C and pc. -/
structure Effects (i : Instr) (s t : State) : Prop where
  cfg : t.cfg = s.cfg
  status : t.status = s.status
  lowF : KeepsLowF s t
  mem : StoresAsListed i s t
  sp : WritesSPAsListed i s t
  cost : ReturnsItsCost i s t

/-- The faults a meaning can answer: its read at HL, or its write at HL or at HL-1 (R93, R94, R101 to R114). -/
abbrev DataFault (s : State) (f : Fault) : Prop :=
  (f = .forbiddenMemoryAccess (s.pair .hl) .read ∧ ReadFaults s (s.pair .hl)) ∨
  (f = .forbiddenMemoryAccess (s.pair .hl) .write ∧ forbidden (s.pair .hl) = true) ∨
  (f = .forbiddenMemoryAccess (s.pair .hl - 1) .write ∧ forbidden (s.pair .hl - 1) = true)

/-- `i` completes with its listed effects, or answers a data fault. -/
abbrev Accounted (i : Instr) (s : State) : Prop :=
  (∃ t, exec i s = .next t ∧ Effects i s t) ∨ (∃ f, exec i s = .fault f ∧ DataFault s f)

/-! ### One lemma per shape of meaning -/

theorem retire_effects {i : Instr} {n : Nat} {s x : State} (hcfg : x.cfg = s.cfg)
    (hst : x.status = s.status) (hf : KeepsLowF s x) (hm : StoresAsListed i s x)
    (hsp : WritesSPAsListed i s x) : ∃ t, retire (opcodeOf i) n x = .next t ∧ Effects i s t :=
  ⟨_, retire_eq _ _ _, hcfg, hst, hf, hm, hsp, false, by rw [← hcfg]; rfl, by simp⟩

theorem accounted_retire {i : Instr} {n : Nat} {s x : State} (h : exec i s = retire (opcodeOf i) n x)
    (hcfg : x.cfg = s.cfg) (hst : x.status = s.status) (hf : KeepsLowF s x) (hm : x.mem = s.mem)
    (hsp : WritesSPAsListed i s x) : Accounted i s := by
  rw [Accounted, h]
  exact .inl (retire_effects hcfg hst hf (.inl hm) hsp)

theorem accounted_readAtHL {i : Instr} {s : State} {x : Byte → State}
    (h : exec i s = withByteAtHL s fun b => retire (opcodeOf i) 1 (x b)) (hcfg : ∀ b, (x b).cfg = s.cfg)
    (hst : ∀ b, (x b).status = s.status) (hf : ∀ b, KeepsLowF s (x b)) (hm : ∀ b, (x b).mem = s.mem)
    (hsp : ∀ b, (x b).sp = s.sp) : Accounted i s := by
  rw [Accounted, h]
  rcases withByteAtHL_cases s (fun b => retire (opcodeOf i) 1 (x b)) with ⟨hb, _⟩ | ⟨hb, hr⟩
  · rw [hb]
    exact .inl (retire_effects (hcfg _) (hst _) (hf _) (.inl (hm _)) (.inl (hsp _)))
  · rw [hb]
    exact .inr ⟨_, rfl, .inl ⟨rfl, hr⟩⟩

theorem accounted_stepAtHL {i : Instr} {s : State} (r : Byte → Step8) (n : Bool)
    (hi : i = .incAtHL ∨ i = .decAtHL)
    (h : exec i s = withByteAtHL s fun b => withStoreAtHL s (r b).result fun t =>
      retire (opcodeOf i) 1 (t.setStepFlags (r b) n)) : Accounted i s := by
  rw [Accounted, h]
  rcases withByteAtHL_cases s (fun b => withStoreAtHL s (r b).result fun t =>
      retire (opcodeOf i) 1 (t.setStepFlags (r b) n)) with ⟨hb, _⟩ | ⟨hb, hr⟩
  · rw [hb]
    rcases withStoreAtHL_cases s (r (s.mem.byteAt (s.pair .hl).toNat)).result (fun t =>
        retire (opcodeOf i) 1 (t.setStepFlags (r (s.mem.byteAt (s.pair .hl).toNat)) n)) with ⟨hw, ha⟩ | ⟨hw, ha⟩
    · rw [hw]
      exact .inl (retire_effects rfl rfl (setStepFlags_lowF _ _ _) (.inr (.inl ⟨.inr hi, ha, _, rfl⟩)) (.inl rfl))
    · rw [hw]
      exact .inr ⟨_, rfl, .inr (.inl ⟨rfl, ha⟩)⟩
  · rw [hb]
    exact .inr ⟨_, rfl, .inl ⟨rfl, hr⟩⟩

theorem accounted_setReg {i : Instr} {n : Nat} {s : State} (r : Reg8) (v : Byte)
    (h : exec i s = retire (opcodeOf i) n (s.setReg r v)) : Accounted i s :=
  accounted_retire h (by simp) (by simp) (by simp [KeepsLowF]) (by simp) (.inl (by simp))

theorem accounted_setPair {i : Instr} {n : Nat} {s : State} (p : Reg16) (v : Word)
    (h : exec i s = retire (opcodeOf i) n (s.setPair p v)) (hsp : WritesSPAsListed i s (s.setPair p v)) :
    Accounted i s :=
  accounted_retire h (by simp) (by simp) (by simp [KeepsLowF]) (by simp) hsp

theorem accounted_incReg {i : Instr} {s : State} (r : Reg8) (h : exec i s = incReg (opcodeOf i) r s) :
    Accounted i s :=
  accounted_retire h (by simp) (by simp) (by simp [KeepsLowF]) (by simp) (.inl (by simp))

theorem accounted_decReg {i : Instr} {s : State} (r : Reg8) (h : exec i s = decReg (opcodeOf i) r s) :
    Accounted i s :=
  accounted_retire h (by simp) (by simp) (by simp [KeepsLowF]) (by simp) (.inl (by simp))

theorem accounted_addToA {i : Instr} {n : Nat} {s : State} (b : Byte)
    (h : exec i s = retire (opcodeOf i) n (addToA b s)) : Accounted i s :=
  accounted_retire h rfl rfl (setAluFlags_lowF _ _ _) rfl (.inl rfl)

theorem accounted_subFromA {i : Instr} {n : Nat} {s : State} (b : Byte)
    (h : exec i s = retire (opcodeOf i) n (subFromA b s)) : Accounted i s :=
  accounted_retire h rfl rfl (setAluFlags_lowF _ _ _) rfl (.inl rfl)

theorem accounted_orIntoA {i : Instr} {n : Nat} {s : State} (b : Byte)
    (h : exec i s = retire (opcodeOf i) n (orIntoA b s)) : Accounted i s :=
  accounted_retire h rfl rfl (setAluFlags_lowF _ _ _) rfl (.inl rfl)

theorem accounted_compareWithA {i : Instr} {n : Nat} {s : State} (b : Byte)
    (h : exec i s = retire (opcodeOf i) n (compareWithA b s)) : Accounted i s :=
  accounted_retire h rfl rfl (setFlags_lowF _ _ _ _ _) rfl (.inl rfl)

theorem accounted_addPairToHL {i : Instr} {s : State} (p : Reg16)
    (h : exec i s = addPairToHL (opcodeOf i) p s) : Accounted i s :=
  accounted_retire h rfl rfl (by simp [KeepsLowF]) rfl (.inl rfl)

theorem accounted_jumpWhen {i : Instr} {s : State} (n : Nat) (taken : Bool) (target : Word → Word)
    (hi : opcodeOf i ∈ conditionalJumpOpcodes) (h : exec i s = jumpWhen (opcodeOf i) n taken target s) :
    Accounted i s := by
  rw [Accounted, h, jumpWhen_eq]
  exact .inl ⟨_, rfl, rfl, rfl, rfl, .inl rfl, .inl rfl, taken, rfl, fun _ => hi⟩

theorem accounted_returnCycles {i : Instr} {pc : Word} {s : State}
    (h : exec i s = returnCycles (s.cfg.cycles (opcodeOf i)) { s with pc := pc }) : Accounted i s := by
  rw [Accounted, h]
  exact .inl ⟨_, rfl, rfl, rfl, rfl, .inl rfl, .inl rfl, false, rfl, by simp⟩

theorem accounted_ldAtHLd8 (n : Byte) (s : State) : Accounted (.ldAtHLd8 n) s := by
  rcases withStoreAtHL_cases s n (retire 0x36 2) with ⟨hw, ha⟩ | ⟨hw, ha⟩
  · exact .inl ⟨_, hw, rfl, rfl, rfl, .inr (.inl ⟨.inl ⟨n, rfl⟩, ha, n, rfl⟩), .inl rfl, false, rfl, by simp⟩
  · exact .inr ⟨_, hw, .inr (.inl ⟨rfl, ha⟩)⟩

theorem accounted_ldAtHLDecA (s : State) : Accounted .ldAtHLDecA s := by
  have hp : (s.setPair .hl (s.pair .hl - 1)).pair .hl = s.pair .hl - 1 := setPair_pair_same _ _ _
  rcases withStoreAtHL_cases (s.setPair .hl (s.pair .hl - 1)) s.a (retire 0x32 1) with ⟨hw, ha⟩ | ⟨hw, ha⟩
  · rw [hp] at hw ha
    exact .inl ⟨_, hw, rfl, rfl, rfl, .inr (.inr ⟨rfl, ha, s.a, rfl⟩), .inl rfl, false, rfl, by simp⟩
  · rw [hp] at hw ha
    exact .inr ⟨_, hw, .inr (.inr ⟨rfl, ha⟩)⟩

/-! ### All instructions -/

/-- Every instruction, in every state, completes with the effects listed for it or answers a data fault. -/
theorem exec_cases (i : Instr) (s : State) : Accounted i s :=
  match i with
  | .nop => accounted_retire (n := 1) (x := s) rfl rfl rfl rfl rfl (.inl rfl)
  | .ldBCd16 nn => accounted_setPair .bc nn rfl (.inl rfl)
  | .incBC => accounted_setPair .bc (s.pair .bc + 1) rfl (.inl rfl)
  | .incB => accounted_incReg .b rfl
  | .decB => accounted_decReg .b rfl
  | .ldBd8 n => accounted_setReg .b n rfl
  | .rlca => accounted_retire rfl rfl rfl (setFlags_lowF _ _ _ _ _) rfl (.inl rfl)
  | .addHLBC => accounted_addPairToHL .bc rfl
  | .decBC => accounted_setPair .bc (s.pair .bc - 1) rfl (.inl rfl)
  | .incC => accounted_incReg .c rfl
  | .decC => accounted_decReg .c rfl
  | .ldCd8 n => accounted_setReg .c n rfl
  | .ldDEd16 nn => accounted_setPair .de nn rfl (.inl rfl)
  | .incDE => accounted_setPair .de (s.pair .de + 1) rfl (.inl rfl)
  | .incD => accounted_incReg .d rfl
  | .decD => accounted_decReg .d rfl
  | .ldDd8 n => accounted_setReg .d n rfl
  | .jr e => accounted_returnCycles rfl
  | .addHLDE => accounted_addPairToHL .de rfl
  | .decDE => accounted_setPair .de (s.pair .de - 1) rfl (.inl rfl)
  | .incE => accounted_incReg .e rfl
  | .decE => accounted_decReg .e rfl
  | .ldEd8 n => accounted_setReg .e n rfl
  | .rra => accounted_retire rfl rfl rfl (setFlags_lowF _ _ _ _ _) rfl (.inl rfl)
  | .jrNZ e => accounted_jumpWhen 2 (s.condition .nz) (fun pc => addSigned pc e)
      (show (0x20 : Byte) ∈ conditionalJumpOpcodes by decide) rfl
  | .ldHLd16 nn => accounted_setPair .hl nn rfl (.inl rfl)
  | .incHL => accounted_setPair .hl (s.pair .hl + 1) rfl (.inl rfl)
  | .incH => accounted_incReg .h rfl
  | .decH => accounted_decReg .h rfl
  | .ldHd8 n => accounted_setReg .h n rfl
  | .jrZ e => accounted_jumpWhen 2 (s.condition .z) (fun pc => addSigned pc e)
      (show (0x28 : Byte) ∈ conditionalJumpOpcodes by decide) rfl
  | .addHLHL => accounted_addPairToHL .hl rfl
  | .decHL => accounted_setPair .hl (s.pair .hl - 1) rfl (.inl rfl)
  | .incL => accounted_incReg .l rfl
  | .decL => accounted_decReg .l rfl
  | .ldLd8 n => accounted_setReg .l n rfl
  | .jrNC e => accounted_jumpWhen 2 (s.condition .nc) (fun pc => addSigned pc e)
      (show (0x30 : Byte) ∈ conditionalJumpOpcodes by decide) rfl
  | .ldSPd16 nn => accounted_setPair .sp nn rfl (.inr (.inl ⟨_, rfl⟩))
  | .ldAtHLDecA => accounted_ldAtHLDecA s
  | .incSP => accounted_setPair .sp (s.pair .sp + 1) rfl (.inr (.inr (.inl rfl)))
  | .incAtHL => accounted_stepAtHL inc8 false (.inl rfl) rfl
  | .decAtHL => accounted_stepAtHL dec8 true (.inr rfl) rfl
  | .ldAtHLd8 n => accounted_ldAtHLd8 n s
  | .jrC e => accounted_jumpWhen 2 (s.condition .c) (fun pc => addSigned pc e)
      (show (0x38 : Byte) ∈ conditionalJumpOpcodes by decide) rfl
  | .addHLSP => accounted_addPairToHL .sp rfl
  | .decSP => accounted_setPair .sp (s.pair .sp - 1) rfl (.inr (.inr (.inr rfl)))
  | .incA => accounted_incReg .a rfl
  | .decA => accounted_decReg .a rfl
  | .ldAd8 n => accounted_setReg .a n rfl
  | .addAB => accounted_addToA (s.reg .b) rfl
  | .addAC => accounted_addToA (s.reg .c) rfl
  | .addAD => accounted_addToA (s.reg .d) rfl
  | .addAE => accounted_addToA (s.reg .e) rfl
  | .addAH => accounted_addToA (s.reg .h) rfl
  | .addAL => accounted_addToA (s.reg .l) rfl
  | .addAAtHL => accounted_readAtHL (x := fun b => addToA b s) rfl (fun _ => rfl) (fun _ => rfl) (fun _ => setAluFlags_lowF _ _ _)
      (fun _ => rfl) (fun _ => rfl)
  | .addAA => accounted_addToA (s.reg .a) rfl
  | .subB => accounted_subFromA (s.reg .b) rfl
  | .subC => accounted_subFromA (s.reg .c) rfl
  | .subD => accounted_subFromA (s.reg .d) rfl
  | .subE => accounted_subFromA (s.reg .e) rfl
  | .subH => accounted_subFromA (s.reg .h) rfl
  | .subL => accounted_subFromA (s.reg .l) rfl
  | .subAtHL => accounted_readAtHL (x := fun b => subFromA b s) rfl (fun _ => rfl) (fun _ => rfl) (fun _ => setAluFlags_lowF _ _ _)
      (fun _ => rfl) (fun _ => rfl)
  | .subA => accounted_subFromA (s.reg .a) rfl
  | .xorA => accounted_retire rfl rfl rfl (setFlags_lowF _ _ _ _ _) rfl (.inl rfl)
  | .orB => accounted_orIntoA (s.reg .b) rfl
  | .orC => accounted_orIntoA (s.reg .c) rfl
  | .orD => accounted_orIntoA (s.reg .d) rfl
  | .orE => accounted_orIntoA (s.reg .e) rfl
  | .orH => accounted_orIntoA (s.reg .h) rfl
  | .orL => accounted_orIntoA (s.reg .l) rfl
  | .orAtHL => accounted_readAtHL (x := fun b => orIntoA b s) rfl (fun _ => rfl) (fun _ => rfl) (fun _ => setAluFlags_lowF _ _ _)
      (fun _ => rfl) (fun _ => rfl)
  | .orA => accounted_orIntoA (s.reg .a) rfl
  | .cpB => accounted_compareWithA (s.reg .b) rfl
  | .cpC => accounted_compareWithA (s.reg .c) rfl
  | .cpD => accounted_compareWithA (s.reg .d) rfl
  | .cpE => accounted_compareWithA (s.reg .e) rfl
  | .cpH => accounted_compareWithA (s.reg .h) rfl
  | .cpL => accounted_compareWithA (s.reg .l) rfl
  | .cpAtHL => accounted_readAtHL (x := fun b => compareWithA b s) rfl (fun _ => rfl) (fun _ => rfl) (fun _ => setFlags_lowF _ _ _ _ _)
      (fun _ => rfl) (fun _ => rfl)
  | .cpA => accounted_compareWithA (s.reg .a) rfl
  | .jpNZ nn => accounted_jumpWhen 3 (s.condition .nz) (fun _ => nn)
      (show (0xC2 : Byte) ∈ conditionalJumpOpcodes by decide) rfl
  | .jp nn => accounted_returnCycles rfl
  | .addAd8 n => accounted_addToA n rfl
  | .jpZ nn => accounted_jumpWhen 3 (s.condition .z) (fun _ => nn)
      (show (0xCA : Byte) ∈ conditionalJumpOpcodes by decide) rfl
  | .jpNC nn => accounted_jumpWhen 3 (s.condition .nc) (fun _ => nn)
      (show (0xD2 : Byte) ∈ conditionalJumpOpcodes by decide) rfl
  | .subd8 n => accounted_subFromA n rfl
  | .jpC nn => accounted_jumpWhen 3 (s.condition .c) (fun _ => nn)
      (show (0xDA : Byte) ∈ conditionalJumpOpcodes by decide) rfl
  | .ord8 n => accounted_orIntoA n rfl
  | .cpd8 n => accounted_compareWithA n rfl

theorem exec_next_effects {i : Instr} {s t : State} (hnext : exec i s = .next t) : Effects i s t := by
  rcases exec_cases i s with ⟨u, hu, he⟩ | ⟨f, hf, _⟩
  · rw [hu] at hnext
    cases hnext
    exact he
  · rw [hf] at hnext
    cases hnext

theorem exec_fault_cases {i : Instr} {s : State} {f : Fault} (hfault : exec i s = .fault f) : DataFault s f := by
  rcases exec_cases i s with ⟨u, hu, _⟩ | ⟨g, hg, hd⟩
  · rw [hu] at hfault
    cases hfault
  · rw [hg] at hfault
    cases hfault
    exact hd

end Sys2Proof.Machine
end

