-- ==== Sys2Proof/Laws/Fetch.lean ====
section
/-! SUPPORT. Everything a fetch can answer: the instruction at pc, an opcode outside the table, or the
first byte whose read faults. -/

namespace Sys2Proof.Machine

/-- Fetching a byte answers it and moves pc, or faults at pc. -/
theorem fetch8_cases (s : State) :
    (fetch8 s = .ok (s.mem.byteAt s.pc.toNat, s.advance 1) ∧ Readable s s.pc) ∨
    (fetch8 s = .error (.forbiddenMemoryAccess s.pc .read) ∧ ReadFaults s s.pc) := by
  unfold fetch8
  rcases busRead_cases s s.pc with ⟨hb, hr⟩ | ⟨hb, hr⟩
  · exact .inl ⟨by rw [hb], hr⟩
  · exact .inr ⟨by rw [hb], hr⟩

theorem readable_not_faulting {s : State} {a : Word} (hr : Readable s a) : ¬ReadFaults s a := by
  rintro ⟨hc, hf⟩
  simp [hr hc] at hf

/-- The `k`-th byte after the next one. -/
theorem pc_advance_one (s : State) (k : Nat) :
    (s.advance 1).pc + BitVec.ofNat 16 k = s.pc + BitVec.ofNat 16 (k + 1) := by
  rw [advance_pc, BitVec.add_assoc, ← BitVec.ofNat_add, Nat.add_comm 1 k]

/-- Where `n` bytes can be read from pc on, they are the operands, in address order. -/
theorem fetchOperands_of_readable (n : Nat) (s : State) (hr : ReadableFrom s s.pc n) :
    fetchOperands n s =
      .ok ((List.range n).map fun k => s.mem.byteAt (s.pc + BitVec.ofNat 16 k).toNat) := by
  induction n generalizing s with
  | zero => rfl
  | succ n ih =>
    have h0 : Readable s s.pc := by simpa using hr 0 (by omega)
    rcases fetch8_cases s with ⟨h1, _⟩ | ⟨_, h2⟩
    · have hrest : ReadableFrom (s.advance 1) (s.advance 1).pc n := fun k hk => by
        rw [pc_advance_one]
        exact hr (k + 1) (by omega)
      simp only [fetchOperands, h1, ih _ hrest, pc_advance_one]
      simp [List.range_succ_eq_map, Function.comp_def, -BitVec.toNat_add]
    · exact absurd h2 (readable_not_faulting h0)

/-- The first operand byte whose read faults ends the fetch. -/
theorem fetchOperands_of_faulting (k n : Nat) (s : State) (hk : k < n)
    (hr : ReadableFrom s s.pc k) (hf : ReadFaults s (s.pc + BitVec.ofNat 16 k)) :
    fetchOperands n s = .error (.forbiddenMemoryAccess (s.pc + BitVec.ofNat 16 k) .read) := by
  induction n generalizing s k with
  | zero => omega
  | succ n ih =>
    cases k with
    | zero =>
      simp only [BitVec.add_zero] at hf ⊢
      rcases fetch8_cases s with ⟨_, h2⟩ | ⟨h1, _⟩
      · exact absurd hf (readable_not_faulting h2)
      · simp only [fetchOperands, h1]
    | succ k =>
      have h0 : Readable s s.pc := by simpa using hr 0 (by omega)
      rcases fetch8_cases s with ⟨h1, _⟩ | ⟨_, h2⟩
      · rw [← pc_advance_one] at hf ⊢
        have hrest : ReadableFrom (s.advance 1) (s.advance 1).pc k := fun j hj => by
          rw [pc_advance_one]
          exact hr (j + 1) (by omega)
        simp only [fetchOperands, h1, ih k (s.advance 1) (by omega) hrest hf]
      · exact absurd h2 (readable_not_faulting h0)

/-- Fetching `n` operands answers `n` bytes or faults at one of the `n` addresses. -/
theorem fetchOperands_cases (n : Nat) (s : State) :
    (∃ bs, fetchOperands n s = .ok bs ∧ bs.length = n) ∨
    (∃ k, k < n ∧ fetchOperands n s = .error (.forbiddenMemoryAccess (s.pc + BitVec.ofNat 16 k) .read) ∧
      ReadFaults s (s.pc + BitVec.ofNat 16 k)) := by
  induction n generalizing s with
  | zero => exact .inl ⟨[], rfl, rfl⟩
  | succ n ih =>
    rcases fetch8_cases s with ⟨h1, _⟩ | ⟨h1, h2⟩
    · rcases ih (s.advance 1) with ⟨bs, hb, hl⟩ | ⟨k, hk, hb, hf⟩
      · exact .inl ⟨s.mem.byteAt s.pc.toNat :: bs, by simp only [fetchOperands, h1, hb], by simp [hl]⟩
      · rw [pc_advance_one] at hb hf
        exact .inr ⟨k + 1, by omega, by simp only [fetchOperands, h1, hb], hf⟩
    · exact .inr ⟨0, by omega, by simp [fetchOperands, h1], by simpa using h2⟩

/-- The map has a row exactly for the opcodes of S (R68). -/
theorem contains_specifiedSet : ∀ op : Byte, specifiedSet.contains op = (operandCount op).isSome := by
  decide +kernel

theorem operandCount_of_outside {op : Byte} (h : specifiedSet.contains op = false) :
    operandCount op = none := by
  rw [contains_specifiedSet] at h
  simpa using h

theorem outside_of_operandCount {op : Byte} (h : operandCount op = none) :
    specifiedSet.contains op = false := by
  rw [contains_specifiedSet, h]
  rfl

theorem operandCount_le {op : Byte} {n : Nat} (h : operandCount op = some n) : n ≤ 2 := by
  unfold operandCount at h
  cases hrow : opcodeRow op with
  | none => simp [hrow] at h
  | some row =>
    rw [hrow] at h
    cases row <;> (simp [OpcodeRow.operandCount] at h; omega)

/-- An opcode with its operand bytes decodes to an instruction with that opcode, and nothing is left. -/
theorem decode_of_operandCount {op : Byte} {n : Nat} {bs : List Byte} (h : operandCount op = some n)
    (hl : bs.length = n) : ∃ i, decode (op :: bs) = .ok (i, []) ∧ opcodeOf i = op := by
  unfold operandCount at h
  cases hrow : opcodeRow op with
  | none => simp [hrow] at h
  | some row =>
    have hfit := opcodeRow_fits hrow
    simp only [decode, hrow]
    rw [hrow] at h
    cases row with
    | f1 i =>
      obtain rfl : 0 = n := by simpa [OpcodeRow.operandCount] using h
      match bs, hl with
      | [], _ => exact ⟨i, rfl, (List.cons.inj hfit).1⟩
    | f2 make =>
      obtain rfl : 1 = n := by simpa [OpcodeRow.operandCount] using h
      match bs, hl with
      | [v], _ => exact ⟨make v, rfl, (List.cons.inj (hfit v)).1⟩
    | f3 make =>
      obtain rfl : 2 = n := by simpa [OpcodeRow.operandCount] using h
      match bs, hl with
      | [lo, hi], _ => exact ⟨make (wordOfBytes hi lo), rfl, (List.cons.inj (hfit _)).1⟩

theorem lookupHandler_some {cfg : Config} {op : Byte} {n : Nat} (h : lookupHandler cfg op = some n) :
    cfg.implemented.contains op = true ∧ operandCount op = some n := by
  unfold lookupHandler at h
  split at h
  · exact ⟨‹_›, h⟩
  · cases h

theorem lookupHandler_none {cfg : Config} {op : Byte} (h : lookupHandler cfg op = none) :
    cfg.implemented.contains op = false ∨ specifiedSet.contains op = false := by
  unfold lookupHandler at h
  split at h
  · exact .inr (outside_of_operandCount h)
  · rename_i hin
    exact .inl (by simpa using hin)

/-- The fetch of an instruction answers one whose opcode is the byte at pc and is in the table; or that
opcode is outside the table; or one of the three bytes from pc on cannot be read. -/
theorem fetchInstr_cases (s : State) :
    (∃ i, fetchInstr s = .ok i ∧ opcodeOf i = s.mem.byteAt s.pc.toNat ∧
      s.cfg.implemented.contains (opcodeOf i) = true ∧ Readable s s.pc) ∨
    (fetchInstr s = .error (.unsupportedOpcode (s.mem.byteAt s.pc.toNat) s.pc) ∧ Readable s s.pc ∧
      (s.cfg.implemented.contains (s.mem.byteAt s.pc.toNat) = false ∨
        specifiedSet.contains (s.mem.byteAt s.pc.toNat) = false)) ∨
    (∃ a, fetchInstr s = .error (.forbiddenMemoryAccess a .read) ∧ ReadFaults s a ∧
      (a = s.pc ∨ a = s.pc + 1 ∨ a = s.pc + 2)) := by
  rcases fetch8_cases s with ⟨h1, h2⟩ | ⟨h1, h2⟩
  · cases hl : lookupHandler s.cfg (s.mem.byteAt s.pc.toNat) with
    | none => exact .inr (.inl ⟨by simp only [fetchInstr, h1, hl], h2, lookupHandler_none hl⟩)
    | some n =>
      obtain ⟨hin, hcount⟩ := lookupHandler_some hl
      rcases fetchOperands_cases n (s.advance 1) with ⟨bs, hb, hlen⟩ | ⟨k, hk, hb, hf⟩
      · obtain ⟨i, hd, hop⟩ := decode_of_operandCount hcount hlen
        exact .inl ⟨i, by simp only [fetchInstr, h1, hl, hb, hd], hop, by rw [hop]; exact hin, h2⟩
      · have hle := operandCount_le hcount
        rw [pc_advance_one] at hb hf
        refine .inr (.inr ⟨s.pc + BitVec.ofNat 16 (k + 1), by simp only [fetchInstr, h1, hl, hb], hf, ?_⟩)
        rcases (by omega : k = 0 ∨ k = 1) with rfl | rfl
        · exact .inr (.inl rfl)
        · exact .inr (.inr rfl)
  · exact .inr (.inr ⟨s.pc, by simp only [fetchInstr, h1], h2, .inl rfl⟩)

end Sys2Proof.Machine
end

