-- ==== Sys2Proof/Laws/PerInstr.lean ====
section
/-! SUPPORT. Facts about every instruction as syntax, one lemma per constructor. -/

namespace Sys2Proof.Laws.EncodeShape

/-- The decoder's table asks for exactly the operand bytes the encoder writes after the opcode
(30_encoding.md R61, R66). -/
abbrev Statement (i : Instr) : Prop := operandCount (opcodeOf i) = some (operandsOf i).length

theorem nop : Statement .nop := rfl
theorem ldBCd16 (nn : Word) : Statement (.ldBCd16 nn) := (by decide : operandCount 0x01 = some 2)
theorem incBC : Statement .incBC := rfl
theorem incB : Statement .incB := rfl
theorem decB : Statement .decB := rfl
theorem ldBd8 (n : Byte) : Statement (.ldBd8 n) := (by decide : operandCount 0x06 = some 1)
theorem rlca : Statement .rlca := rfl
theorem addHLBC : Statement .addHLBC := rfl
theorem decBC : Statement .decBC := rfl
theorem incC : Statement .incC := rfl
theorem decC : Statement .decC := rfl
theorem ldCd8 (n : Byte) : Statement (.ldCd8 n) := (by decide : operandCount 0x0E = some 1)
theorem ldDEd16 (nn : Word) : Statement (.ldDEd16 nn) := (by decide : operandCount 0x11 = some 2)
theorem incDE : Statement .incDE := rfl
theorem incD : Statement .incD := rfl
theorem decD : Statement .decD := rfl
theorem ldDd8 (n : Byte) : Statement (.ldDd8 n) := (by decide : operandCount 0x16 = some 1)
theorem jr (n : Byte) : Statement (.jr n) := (by decide : operandCount 0x18 = some 1)
theorem addHLDE : Statement .addHLDE := rfl
theorem decDE : Statement .decDE := rfl
theorem incE : Statement .incE := rfl
theorem decE : Statement .decE := rfl
theorem ldEd8 (n : Byte) : Statement (.ldEd8 n) := (by decide : operandCount 0x1E = some 1)
theorem rra : Statement .rra := rfl
theorem jrNZ (n : Byte) : Statement (.jrNZ n) := (by decide : operandCount 0x20 = some 1)
theorem ldHLd16 (nn : Word) : Statement (.ldHLd16 nn) := (by decide : operandCount 0x21 = some 2)
theorem incHL : Statement .incHL := rfl
theorem incH : Statement .incH := rfl
theorem decH : Statement .decH := rfl
theorem ldHd8 (n : Byte) : Statement (.ldHd8 n) := (by decide : operandCount 0x26 = some 1)
theorem jrZ (n : Byte) : Statement (.jrZ n) := (by decide : operandCount 0x28 = some 1)
theorem addHLHL : Statement .addHLHL := rfl
theorem decHL : Statement .decHL := rfl
theorem incL : Statement .incL := rfl
theorem decL : Statement .decL := rfl
theorem ldLd8 (n : Byte) : Statement (.ldLd8 n) := (by decide : operandCount 0x2E = some 1)
theorem jrNC (n : Byte) : Statement (.jrNC n) := (by decide : operandCount 0x30 = some 1)
theorem ldSPd16 (nn : Word) : Statement (.ldSPd16 nn) := (by decide : operandCount 0x31 = some 2)
theorem ldAtHLDecA : Statement .ldAtHLDecA := rfl
theorem incSP : Statement .incSP := rfl
theorem incAtHL : Statement .incAtHL := rfl
theorem decAtHL : Statement .decAtHL := rfl
theorem ldAtHLd8 (n : Byte) : Statement (.ldAtHLd8 n) := (by decide : operandCount 0x36 = some 1)
theorem jrC (n : Byte) : Statement (.jrC n) := (by decide : operandCount 0x38 = some 1)
theorem addHLSP : Statement .addHLSP := rfl
theorem decSP : Statement .decSP := rfl
theorem incA : Statement .incA := rfl
theorem decA : Statement .decA := rfl
theorem ldAd8 (n : Byte) : Statement (.ldAd8 n) := (by decide : operandCount 0x3E = some 1)
theorem addAB : Statement .addAB := rfl
theorem addAC : Statement .addAC := rfl
theorem addAD : Statement .addAD := rfl
theorem addAE : Statement .addAE := rfl
theorem addAH : Statement .addAH := rfl
theorem addAL : Statement .addAL := rfl
theorem addAAtHL : Statement .addAAtHL := rfl
theorem addAA : Statement .addAA := rfl
theorem subB : Statement .subB := rfl
theorem subC : Statement .subC := rfl
theorem subD : Statement .subD := rfl
theorem subE : Statement .subE := rfl
theorem subH : Statement .subH := rfl
theorem subL : Statement .subL := rfl
theorem subAtHL : Statement .subAtHL := rfl
theorem subA : Statement .subA := rfl
theorem xorA : Statement .xorA := rfl
theorem orB : Statement .orB := rfl
theorem orC : Statement .orC := rfl
theorem orD : Statement .orD := rfl
theorem orE : Statement .orE := rfl
theorem orH : Statement .orH := rfl
theorem orL : Statement .orL := rfl
theorem orAtHL : Statement .orAtHL := rfl
theorem orA : Statement .orA := rfl
theorem cpB : Statement .cpB := rfl
theorem cpC : Statement .cpC := rfl
theorem cpD : Statement .cpD := rfl
theorem cpE : Statement .cpE := rfl
theorem cpH : Statement .cpH := rfl
theorem cpL : Statement .cpL := rfl
theorem cpAtHL : Statement .cpAtHL := rfl
theorem cpA : Statement .cpA := rfl
theorem jpNZ (nn : Word) : Statement (.jpNZ nn) := (by decide : operandCount 0xC2 = some 2)
theorem jp (nn : Word) : Statement (.jp nn) := (by decide : operandCount 0xC3 = some 2)
theorem addAd8 (n : Byte) : Statement (.addAd8 n) := (by decide : operandCount 0xC6 = some 1)
theorem jpZ (nn : Word) : Statement (.jpZ nn) := (by decide : operandCount 0xCA = some 2)
theorem jpNC (nn : Word) : Statement (.jpNC nn) := (by decide : operandCount 0xD2 = some 2)
theorem subd8 (n : Byte) : Statement (.subd8 n) := (by decide : operandCount 0xD6 = some 1)
theorem jpC (nn : Word) : Statement (.jpC nn) := (by decide : operandCount 0xDA = some 2)
theorem ord8 (n : Byte) : Statement (.ord8 n) := (by decide : operandCount 0xF6 = some 1)
theorem cpd8 (n : Byte) : Statement (.cpd8 n) := (by decide : operandCount 0xFE = some 1)

end Sys2Proof.Laws.EncodeShape
end

