-- ==== Sys2Proof/Laws/Step.lean ====
section
/-! SUPPORT. What one step can do, in terms of the fetch and the meaning it runs. -/

namespace Sys2Proof.Machine

theorem step_of_running {s : State} (hs : s.status = .running) :
    step s = match fetchInstr s with
      | .error f => .fault f
      | .ok i => exec i s := by
  cases s
  cases hs
  rfl

theorem step_of_faulted {s : State} {f : Fault} (hs : s.status = .faulted f) :
    step s = .refused (.coreStopped f) := by
  simp [step, hs]

/-- A step that completes ran the instruction it fetched, with the status `Running`. -/
theorem step_next {s t : State} (hnext : step s = .next t) :
    s.status = .running ∧ ∃ i, fetchInstr s = .ok i ∧ exec i s = .next t := by
  cases hs : s.status with
  | faulted f => simp [step_of_faulted hs] at hnext
  | running =>
    rw [step_of_running hs] at hnext
    cases hi : fetchInstr s with
    | error f => simp [hi] at hnext
    | ok i => exact ⟨rfl, i, rfl, by simpa [hi] using hnext⟩

/-- A step that faults faulted in its fetch or in the meaning it ran. -/
theorem step_fault {s : State} {f : Fault} (hfault : step s = .fault f) :
    s.status = .running ∧ (fetchInstr s = .error f ∨ ∃ i, fetchInstr s = .ok i ∧ exec i s = .fault f) := by
  cases hs : s.status with
  | faulted g => simp [step_of_faulted hs] at hfault
  | running =>
    rw [step_of_running hs] at hfault
    cases hi : fetchInstr s with
    | error g => exact ⟨rfl, .inl (by simpa [hi] using hfault)⟩
    | ok i => exact ⟨rfl, .inr ⟨i, rfl, by simpa [hi] using hfault⟩⟩

theorem afterStep_of_next {s t : State} (hnext : step s = .next t) : afterStep s = t := by
  simp [afterStep, hnext]

theorem afterStep_of_fault {s : State} {f : Fault} (hfault : step s = .fault f) :
    afterStep s = s.takeFault f := by
  simp [afterStep, hfault]

theorem stepReturn_of_next {s t : State} {n : Nat} (hnext : step s = .next t)
    (hn : t.cyclesReturned = some n) : stepReturn s = .ok n := by
  simp [stepReturn, hnext, hn]

theorem stepReturn_of_fault {s : State} {f : Fault} (hfault : step s = .fault f) :
    stepReturn s = .fault f := by
  simp [stepReturn, hfault]

end Sys2Proof.Machine
end

