-- ==== Sys2Proof/Tests/Slice0.lean ====
section
/-! SUPPORT. The model's own tests. The expected results are the spec's: the map of 30_encoding.md R68 and
the opcode fields of R63, the vectors V1 to V97 of 95_test_vectors.md, and for the rest a hand calculation
from the rule named. Then one witness for the hypotheses of every statement that has some. -/

namespace Sys2Proof.Tests

open Sys2Proof.Machine

/-! ### Helpers -/

/-- The power-on state of the vectors with pc at 0x0200. -/
def base : State := { State.reset with pc := 0x0200 }

/-- `s` with the given bytes at its pc. -/
def loaded (s : State) (bytes : List Byte) : State := s.loadBytes s.pc bytes

/-- One step on `bytes` at pc completes, returns `cycles`, and leaves a state that passes `check`. -/
def runs (s : State) (bytes : List Byte) (cycles : Nat) (check : State → Bool) : Bool :=
  match step (loaded s bytes) with
  | .next t => check t && t.cyclesReturned == some cycles
  | _ => false

/-- One step on `bytes` at pc answers the fault `f`, and the machine is as before but for its status. -/
def faults (s : State) (bytes : List Byte) (f : Fault) : Bool :=
  stepReturn (loaded s bytes) == .fault f &&
    afterStep (loaded s bytes) == { loaded s bytes with status := .faulted f, cyclesReturned := none }

/-! ### Decoding: every row of the map, its bits written out; operands 0x34 and 0x1234 -/

theorem test_decode_nop_and_pair_loads :
    decodeTableWord 8 0b00000000 = some .nop ∧
    decodeTableWord 24 0b000100100011010000000001 = some (.ldBCd16 0x1234) ∧
    decodeTableWord 24 0b000100100011010000010001 = some (.ldDEd16 0x1234) ∧
    decodeTableWord 24 0b000100100011010000100001 = some (.ldHLd16 0x1234) ∧
    decodeTableWord 24 0b000100100011010000110001 = some (.ldSPd16 0x1234) := by decide

theorem test_decode_inc_dec_pair :
    decodeTableWord 8 0b00000011 = some .incBC ∧
    decodeTableWord 8 0b00001011 = some .decBC ∧
    decodeTableWord 8 0b00010011 = some .incDE ∧
    decodeTableWord 8 0b00011011 = some .decDE ∧
    decodeTableWord 8 0b00100011 = some .incHL ∧
    decodeTableWord 8 0b00101011 = some .decHL ∧
    decodeTableWord 8 0b00110011 = some .incSP ∧
    decodeTableWord 8 0b00111011 = some .decSP := by decide

theorem test_decode_inc_byte :
    decodeTableWord 8 0b00000100 = some .incB ∧
    decodeTableWord 8 0b00001100 = some .incC ∧
    decodeTableWord 8 0b00010100 = some .incD ∧
    decodeTableWord 8 0b00011100 = some .incE ∧
    decodeTableWord 8 0b00100100 = some .incH ∧
    decodeTableWord 8 0b00101100 = some .incL ∧
    decodeTableWord 8 0b00110100 = some .incAtHL ∧
    decodeTableWord 8 0b00111100 = some .incA := by decide

theorem test_decode_dec_byte :
    decodeTableWord 8 0b00000101 = some .decB ∧
    decodeTableWord 8 0b00001101 = some .decC ∧
    decodeTableWord 8 0b00010101 = some .decD ∧
    decodeTableWord 8 0b00011101 = some .decE ∧
    decodeTableWord 8 0b00100101 = some .decH ∧
    decodeTableWord 8 0b00101101 = some .decL ∧
    decodeTableWord 8 0b00110101 = some .decAtHL ∧
    decodeTableWord 8 0b00111101 = some .decA := by decide

theorem test_decode_byte_loads :
    decodeTableWord 16 0b0011010000000110 = some (.ldBd8 0x34) ∧
    decodeTableWord 16 0b0011010000001110 = some (.ldCd8 0x34) ∧
    decodeTableWord 16 0b0011010000010110 = some (.ldDd8 0x34) ∧
    decodeTableWord 16 0b0011010000011110 = some (.ldEd8 0x34) ∧
    decodeTableWord 16 0b0011010000100110 = some (.ldHd8 0x34) ∧
    decodeTableWord 16 0b0011010000101110 = some (.ldLd8 0x34) ∧
    decodeTableWord 8 0b00110010 = some .ldAtHLDecA ∧
    decodeTableWord 16 0b0011010000110110 = some (.ldAtHLd8 0x34) ∧
    decodeTableWord 16 0b0011010000111110 = some (.ldAd8 0x34) := by decide

theorem test_decode_xor_and_rotates :
    decodeTableWord 8 0b00000111 = some .rlca ∧
    decodeTableWord 8 0b00011111 = some .rra ∧
    decodeTableWord 8 0b10101111 = some .xorA := by decide

theorem test_decode_add_pair :
    decodeTableWord 8 0b00001001 = some .addHLBC ∧
    decodeTableWord 8 0b00011001 = some .addHLDE ∧
    decodeTableWord 8 0b00101001 = some .addHLHL ∧
    decodeTableWord 8 0b00111001 = some .addHLSP := by decide

theorem test_decode_relative_jumps :
    decodeTableWord 16 0b0011010000011000 = some (.jr 0x34) ∧
    decodeTableWord 16 0b0011010000100000 = some (.jrNZ 0x34) ∧
    decodeTableWord 16 0b0011010000101000 = some (.jrZ 0x34) ∧
    decodeTableWord 16 0b0011010000110000 = some (.jrNC 0x34) ∧
    decodeTableWord 16 0b0011010000111000 = some (.jrC 0x34) := by decide

theorem test_decode_add_byte :
    decodeTableWord 8 0b10000000 = some .addAB ∧
    decodeTableWord 8 0b10000001 = some .addAC ∧
    decodeTableWord 8 0b10000010 = some .addAD ∧
    decodeTableWord 8 0b10000011 = some .addAE ∧
    decodeTableWord 8 0b10000100 = some .addAH ∧
    decodeTableWord 8 0b10000101 = some .addAL ∧
    decodeTableWord 8 0b10000110 = some .addAAtHL ∧
    decodeTableWord 8 0b10000111 = some .addAA ∧
    decodeTableWord 16 0b0011010011000110 = some (.addAd8 0x34) := by decide

theorem test_decode_sub_byte :
    decodeTableWord 8 0b10010000 = some .subB ∧
    decodeTableWord 8 0b10010001 = some .subC ∧
    decodeTableWord 8 0b10010010 = some .subD ∧
    decodeTableWord 8 0b10010011 = some .subE ∧
    decodeTableWord 8 0b10010100 = some .subH ∧
    decodeTableWord 8 0b10010101 = some .subL ∧
    decodeTableWord 8 0b10010110 = some .subAtHL ∧
    decodeTableWord 8 0b10010111 = some .subA ∧
    decodeTableWord 16 0b0011010011010110 = some (.subd8 0x34) := by decide

theorem test_decode_or_byte :
    decodeTableWord 8 0b10110000 = some .orB ∧
    decodeTableWord 8 0b10110001 = some .orC ∧
    decodeTableWord 8 0b10110010 = some .orD ∧
    decodeTableWord 8 0b10110011 = some .orE ∧
    decodeTableWord 8 0b10110100 = some .orH ∧
    decodeTableWord 8 0b10110101 = some .orL ∧
    decodeTableWord 8 0b10110110 = some .orAtHL ∧
    decodeTableWord 8 0b10110111 = some .orA ∧
    decodeTableWord 16 0b0011010011110110 = some (.ord8 0x34) := by decide

theorem test_decode_cp_byte :
    decodeTableWord 8 0b10111000 = some .cpB ∧
    decodeTableWord 8 0b10111001 = some .cpC ∧
    decodeTableWord 8 0b10111010 = some .cpD ∧
    decodeTableWord 8 0b10111011 = some .cpE ∧
    decodeTableWord 8 0b10111100 = some .cpH ∧
    decodeTableWord 8 0b10111101 = some .cpL ∧
    decodeTableWord 8 0b10111110 = some .cpAtHL ∧
    decodeTableWord 8 0b10111111 = some .cpA ∧
    decodeTableWord 16 0b0011010011111110 = some (.cpd8 0x34) := by decide

theorem test_decode_absolute_jumps :
    decodeTableWord 24 0b000100100011010011000010 = some (.jpNZ 0x1234) ∧
    decodeTableWord 24 0b000100100011010011000011 = some (.jp 0x1234) ∧
    decodeTableWord 24 0b000100100011010011001010 = some (.jpZ 0x1234) ∧
    decodeTableWord 24 0b000100100011010011010010 = some (.jpNC 0x1234) ∧
    decodeTableWord 24 0b000100100011010011011010 = some (.jpC 0x1234) := by decide

/-- Opcodes outside S are refused by name: HALT, the CB prefix, XOR d8, 0xD3, and a lone prefix of a word. -/
theorem test_decode_refuses :
    decode [0x76] = .error (.outsideSet 0x76) ∧ decode [0xCB, 0x00] = .error (.outsideSet 0xCB) ∧
    decode [0xEE, 0x00] = .error (.outsideSet 0xEE) ∧ decode [0xD3] = .error (.outsideSet 0xD3) ∧
    decode [0x10, 0x00] = .error (.outsideSet 0x10) ∧ decode [0x40] = .error (.outsideSet 0x40) ∧
    decode [0xC3, 0x50] = .error (.operandMissing 0xC3) ∧ decode [0x06] = .error (.operandMissing 0x06) ∧
    decode [] = .error .noOpcode ∧ decodeTableWord 8 0xE9 = none := by decide

/-- R61: the low byte of a word operand comes first. -/
theorem test_encode_word : encode (.ldBCd16 0x2345) = [0x01, 0x45, 0x23] ∧ encode (.jr 0xFC) = [0x18, 0xFC] := by
  decide

/-! ### Well-formedness: an ill-formed term for each check -/

theorem smoke_reference_is_legal : Config.reference.legal = true := by decide

theorem smoke_opcode_not_in_table : (Instr.ldAd8 0x10).inTable Config.reference = false := by decide

theorem smoke_opcode_outside_set :
    { Config.reference with implemented := 0xCB :: Config.referenceImplemented }.implementedInSet = false := by
  decide

theorem smoke_source_opcode_missing :
    { Config.reference with implemented := Config.referenceImplemented.filter (· != 0x01) }.sourceOpcodes =
      false := by decide

theorem smoke_source_opcode_present :
    { Config.reference with implemented := 0x3E :: Config.referenceImplemented }.sourceOpcodes = false := by
  decide

theorem smoke_cost_zero :
    { Config.reference with cycleCost := (0x00, .fixed 0) :: Config.referenceCycleCost }.costsLegal = false := by
  decide

theorem smoke_taken_costs_less :
    { Config.reference with cycleCost := (0x20, .branch 3 2) :: Config.referenceCycleCost }.costsLegal =
      false := by decide

theorem smoke_cost_of_the_wrong_kind :
    { Config.reference with cycleCost := (0x20, .fixed 2) :: Config.referenceCycleCost }.costsLegal = false ∧
    { Config.reference with cycleCost := (0x18, .branch 3 3) :: Config.referenceCycleCost }.costsLegal =
      false := by decide

theorem smoke_cost_missing :
    { Config.reference with
        cycleCost := Config.referenceCycleCost.filter fun row => row.1 != 0x00 }.costsLegal = false := by decide

theorem smoke_source_cost_wrong :
    { Config.reference with cycleCost := (0x01, .fixed 4) :: Config.referenceCycleCost }.sourceCost = false := by
  decide

theorem smoke_memory_form :
    Memory.wf [(4, 1), (5, 2)] = true ∧ Memory.wf [(5, 2), (4, 1)] = false ∧
    Memory.wf [(5, 1), (5, 2)] = false ∧ Memory.wf [(5, 0)] = false ∧ Memory.wf [(0x10000, 1)] = false := by
  decide

/-! ### One step, from the vectors of 95_test_vectors.md -/

theorem test_V2_nop :
    runs { base with pc := 0xFFFF } [0x00] 1 (fun t => t.pc == 0x0000 && t.f == 0x80) = true := by decide

theorem test_V3_ldDEd16 :
    runs base [0x11, 0x34, 0x12] 3 (fun t => t.d == 0x12 && t.e == 0x34 && t.pc == 0x0203) = true := by decide

theorem test_V4_ldHLd16 :
    runs base [0x21, 0xFF, 0xFF] 3 (fun t => t.h == 0xFF && t.l == 0xFF) = true := by decide

theorem test_V5_ldSPd16 :
    runs base [0x31, 0x00, 0xD0] 3 (fun t => t.sp == 0xD000) = true := by decide

theorem test_V6_ldBCd16 :
    runs { base with pc := 0xFFFE } [0x01, 0xCD, 0xAB] 3 (fun t => t.b == 0xAB && t.c == 0xCD && t.pc == 0x0001) = true := by decide

theorem test_V7_ldBCd16 :
    faults { base with pc := 0xDFFE } [0x01, 0x00, 0x00] (.forbiddenMemoryAccess 0xE000 .read) = true := by decide

theorem test_V8_ldCd8 :
    runs base [0x0E, 0x10] 2 (fun t => t.c == 0x10 && t.pc == 0x0202) = true := by decide

theorem test_V9_ldHd8 :
    runs base [0x26, 0xC0] 2 (fun t => t.h == 0xC0 && t.l == 0x4D) = true := by decide

theorem test_V10_ldAd8 :
    faults base [0x3E, 0x10] (.unsupportedOpcode 0x3E 0x0200) = true := by decide

theorem test_V11_ldAd8 :
    runs { base with cfg := { Config.reference with implemented := specifiedSet } } [0x3E, 0x10] 2
      (fun t => t.a == 0x10 && t.pc == 0x0202) = true := by decide

theorem test_V12_ldAtHLd8 :
    runs { base with h := 0xC0, l := 0x00 } [0x36, 0x5A] 3 (fun t => t.mem.byteAt 0xC000 == 0x5A && t.pc == 0x0202) = true := by decide

theorem test_V13_ldAtHLd8 :
    faults { base with h := 0xFE, l := 0xA0 } [0x36, 0x5A] (.forbiddenMemoryAccess 0xFEA0 .write) = true := by decide

theorem test_V14_ldAtHLDecA :
    runs { base with a := 0x77, h := 0xDF, l := 0xFF } [0x32] 2 (fun t => t.l == 0xFE && t.mem.byteAt 0xDFFE == 0x77 && t.mem.byteAt 0xDFFF == 0x00) = true := by decide

theorem test_V17_ldAtHLDecA :
    faults { base with a := 0x77, h := 0xE0, l := 0x01 } [0x32] (.forbiddenMemoryAccess 0xE000 .write) = true := by decide

theorem test_V20_incB :
    runs { base with f := 0x10, b := 0x0F } [0x04] 1 (fun t => t.b == 0x10 && t.f == 0x30) = true := by decide

theorem test_V21_incA :
    runs { base with a := 0xFF, f := 0x10 } [0x3C] 1 (fun t => t.a == 0x00 && t.f == 0xB0) = true := by decide

theorem test_V22_incL :
    runs { base with f := 0x00, l := 0xFF } [0x2C] 1 (fun t => t.l == 0x00 && t.h == 0x01 && t.f == 0xA0) = true := by decide

theorem test_V23_incAtHL :
    runs { base with f := 0x10, h := 0xC0, l := 0x00, mem := [(0xC000, 0xFF)] } [0x34] 3 (fun t => t.mem.byteAt 0xC000 == 0x00 && t.f == 0xB0) = true := by decide

theorem test_V25_incAtHL :
    faults { base with h := 0xE1, l := 0x00, cfg := { Config.reference with forbiddenReadsFault := false } } [0x34]
      (.forbiddenMemoryAccess 0xE100 .write) = true := by decide

theorem test_V26_decB :
    runs { base with f := 0x10, b := 0x01 } [0x05] 1 (fun t => t.b == 0x00 && t.f == 0xD0) = true := by decide

theorem test_V27_decD :
    runs { base with f := 0x00 } [0x15] 1 (fun t => t.d == 0xFF && t.f == 0x60) = true := by decide

theorem test_V28_decA :
    runs { base with a := 0x10, f := 0x10 } [0x3D] 1 (fun t => t.a == 0x0F && t.f == 0x70) = true := by decide

theorem test_V29_decAtHL :
    runs { base with h := 0xC0, l := 0x00, mem := [(0xC000, 0x10)] } [0x35] 3 (fun t => t.mem.byteAt 0xC000 == 0x0F && t.f == 0x60) = true := by decide

theorem test_V30_decAtHL :
    runs { base with f := 0x10, h := 0xC0, l := 0x00 } [0x35] 3 (fun t => t.mem.byteAt 0xC000 == 0xFF && t.f == 0x70) = true := by decide

theorem test_V31_addAB :
    runs { base with a := 0x3A, b := 0xC6 } [0x80] 1 (fun t => t.a == 0x00 && t.f == 0xB0) = true := by decide

theorem test_V32_addAA :
    runs { base with a := 0x80 } [0x87] 1 (fun t => t.a == 0x00 && t.f == 0x90) = true := by decide

theorem test_V33_addAC :
    runs { base with a := 0x0F, f := 0x00, c := 0x01 } [0x81] 1 (fun t => t.a == 0x10 && t.f == 0x20) = true := by decide

theorem test_V34_addAAtHL :
    runs { base with a := 0x12, h := 0xC0, l := 0x00, mem := [(0xC000, 0x34)] } [0x86] 2 (fun t => t.a == 0x46 && t.f == 0x00) = true := by decide

theorem test_V35_addAAtHL :
    faults { base with a := 0x12, h := 0xFE, l := 0xFF } [0x86] (.forbiddenMemoryAccess 0xFEFF .read) = true := by decide

theorem test_V36_addAd8 :
    runs { base with a := 0xF0 } [0xC6, 0x20] 2 (fun t => t.a == 0x10 && t.f == 0x10 && t.pc == 0x0202) = true := by decide

theorem test_V38_subB :
    runs { base with a := 0x3E, b := 0x0F } [0x90] 1 (fun t => t.a == 0x2F && t.f == 0x60) = true := by decide

theorem test_V39_subA :
    runs { base with a := 0x42 } [0x97] 1 (fun t => t.a == 0x00 && t.f == 0xC0) = true := by decide

theorem test_V40_subE :
    runs { base with a := 0x00, e := 0x01 } [0x93] 1 (fun t => t.a == 0xFF && t.f == 0x70) = true := by decide

theorem test_V41_subAtHL :
    runs { base with a := 0x3E, h := 0xC0, l := 0x00, mem := [(0xC000, 0x40)] } [0x96] 2 (fun t => t.a == 0xFE && t.f == 0x50) = true := by decide

theorem test_V43_subd8 :
    runs { base with a := 0x10 } [0xD6, 0x01] 2 (fun t => t.a == 0x0F && t.f == 0x60) = true := by decide

theorem test_V44_orB :
    runs { base with a := 0x5A, f := 0x70, b := 0xA5 } [0xB0] 1 (fun t => t.a == 0xFF && t.f == 0x00) = true := by decide

theorem test_V45_orA :
    runs { base with a := 0x00, f := 0x30 } [0xB7] 1 (fun t => t.a == 0x00 && t.f == 0x80) = true := by decide

theorem test_V46_orAtHL :
    runs { base with a := 0x00, h := 0xC0, l := 0x00 } [0xB6] 2 (fun t => t.a == 0x00 && t.f == 0x80) = true := by decide

theorem test_V47_ord8 :
    runs { base with a := 0x80, f := 0x30 } [0xF6, 0x01] 2 (fun t => t.a == 0x81 && t.f == 0x00) = true := by decide

theorem test_V48_cpB :
    runs { base with a := 0x3C, b := 0x2F } [0xB8] 1 (fun t => t.a == 0x3C && t.f == 0x60) = true := by decide

theorem test_V49_cpA :
    runs { base with a := 0x42, f := 0x00 } [0xBF] 1 (fun t => t.f == 0xC0) = true := by decide

theorem test_V50_cpAtHL :
    runs { base with a := 0x3C, h := 0xC0, l := 0x00, mem := [(0xC000, 0x40)] } [0xBE] 2 (fun t => t.f == 0x50 && t.a == 0x3C) = true := by decide

theorem test_V51_cpd8 :
    runs { base with a := 0xD2 } [0xFE, 0x29] 2 (fun t => t.f == 0x60 && t.a == 0xD2) = true := by decide

theorem test_V52_cpd8 :
    runs { base with a := 0x59 } [0xFE, 0x84] 2 (fun t => t.f == 0x50) = true := by decide

theorem test_V54_xorA :
    runs { base with a := 0x5C, f := 0x70 } [0xAF] 1 (fun t => t.a == 0x00 && t.f == 0x80) = true := by decide

theorem test_V55_incDE :
    runs { base with d := 0x12, e := 0xFF } [0x13] 2 (fun t => t.d == 0x13 && t.e == 0x00 && t.f == 0x80) = true := by decide

theorem test_V56_incSP :
    runs { base with f := 0x00, sp := 0xFFFF } [0x33] 2 (fun t => t.sp == 0x0000 && t.f == 0x00) = true := by decide

theorem test_V57_incBC :
    runs { base with b := 0x00, c := 0xFF } [0x03] 2 (fun t => t.b == 0x01 && t.c == 0x00) = true := by decide

theorem test_V58_decSP :
    runs { base with sp := 0x0000 } [0x3B] 2 (fun t => t.sp == 0xFFFF) = true := by decide

theorem test_V59_decBC :
    runs { base with f := 0x00, b := 0x00, c := 0x01 } [0x0B] 2 (fun t => t.c == 0x00 && t.f == 0x00) = true := by decide

theorem test_V60_addHLDE :
    runs { base with f := 0x00, d := 0x0F, e := 0xFE, h := 0x0F, l := 0xFF } [0x19] 2 (fun t => t.h == 0x1F && t.l == 0xFD && t.f == 0x20) = true := by decide

theorem test_V61_addHLBC :
    runs { base with f := 0x00, b := 0xFF, c := 0xFF, h := 0xF0, l := 0x00 } [0x09] 2 (fun t => t.h == 0xEF && t.l == 0xFF && t.f == 0x10) = true := by decide

theorem test_V62_addHLBC :
    runs { base with f := 0x00, b := 0x08, c := 0x00, h := 0x08, l := 0x00 } [0x09] 2 (fun t => t.h == 0x10 && t.f == 0x20) = true := by decide

theorem test_V64_addHLHL :
    runs { base with f := 0x40, h := 0x88, l := 0x00 } [0x29] 2 (fun t => t.h == 0x10 && t.l == 0x00 && t.f == 0x30) = true := by decide

theorem test_V66_addHLSP :
    runs { base with f := 0x80, h := 0x00, l := 0x01, sp := 0xFFFF } [0x39] 2 (fun t => t.l == 0x00 && t.f == 0xB0) = true := by decide

theorem test_V67_rlca :
    runs { base with a := 0x85, f := 0x00 } [0x07] 1 (fun t => t.a == 0x0B && t.f == 0x10) = true := by decide

theorem test_V68_rlca :
    runs { base with a := 0x00, f := 0xF0 } [0x07] 1 (fun t => t.a == 0x00 && t.f == 0x00) = true := by decide

theorem test_V70_rra :
    runs { base with a := 0x81, f := 0x00 } [0x1F] 1 (fun t => t.a == 0x40 && t.f == 0x10) = true := by decide

theorem test_V71_rra :
    runs { base with a := 0x00, f := 0x10 } [0x1F] 1 (fun t => t.a == 0x80 && t.f == 0x00) = true := by decide

theorem test_V74_jr :
    runs { base with pc := 0x0216 } [0x18, 0xFE] 3 (fun t => t.pc == 0x0216) = true := by decide

theorem test_V76_jr :
    runs { base with pc := 0x0010 } [0x18, 0x80] 3 (fun t => t.pc == 0xFF92) = true := by decide

theorem test_V77_jrNZ :
    runs { base with f := 0x00, pc := 0x0216 } [0x20, 0xFC] 3 (fun t => t.pc == 0x0214) = true := by decide

theorem test_V78_jrNZ :
    runs { base with f := 0x80, pc := 0x0216 } [0x20, 0xFC] 2 (fun t => t.pc == 0x0218) = true := by decide

theorem test_V79_jrZ :
    runs { base with f := 0x80, pc := 0x0216 } [0x28, 0x10] 3 (fun t => t.pc == 0x0228) = true := by decide

theorem test_V80_jrNC :
    runs { base with f := 0x10, pc := 0x0216 } [0x30, 0x10] 2 (fun t => t.pc == 0x0218) = true := by decide

theorem test_V81_jrC :
    runs { base with f := 0x10, pc := 0x0216 } [0x38, 0x00] 3 (fun t => t.pc == 0x0218) = true := by decide

theorem test_V82_jp :
    runs { base with pc := 0x0101 } [0xC3, 0x50, 0x01] 4 (fun t => t.pc == 0x0150) = true := by decide

theorem test_V83_jpC :
    runs { base with f := 0x10 } [0xDA, 0x00, 0x03] 4 (fun t => t.pc == 0x0300) = true := by decide

theorem test_V84_jpC :
    runs { base with f := 0x00 } [0xDA, 0x00, 0x03] 3 (fun t => t.pc == 0x0203) = true := by decide

theorem test_V85_jpNZ :
    runs { base with f := 0x00 } [0xC2, 0x34, 0x12] 4 (fun t => t.pc == 0x1234) = true := by decide

theorem test_V86_jpZ :
    runs { base with f := 0x80 } [0xCA, 0x34, 0x12] 4 (fun t => t.pc == 0x1234) = true := by decide

theorem test_V87_jpNC :
    runs { base with f := 0x00, pc := 0xFFFE } [0xD2, 0x34, 0x12] 4 (fun t => t.pc == 0x1234) = true := by decide

theorem test_V89_prefix :
    faults base [0xCB, 0x00] (.unsupportedOpcode 0xCB 0x0200) = true := by decide

theorem test_V91_opcode_fetch :
    faults { base with pc := 0xE000 } [0x00] (.forbiddenMemoryAccess 0xE000 .read) = true := by decide

theorem test_V92_opcode_fetch_allowed :
    runs { base with pc := 0xE000, cfg := { Config.reference with forbiddenReadsFault := false } } [0x00] 1
      (fun t => t.pc == 0xE001) = true := by decide

theorem test_V93_operand_fetch :
    faults { base with pc := 0xDFFF } [0x06, 0x00] (.forbiddenMemoryAccess 0xE000 .read) = true := by decide

theorem test_V94_second_operand_fetch :
    faults { base with pc := 0xFE9E } [0xC3, 0x00, 0x00] (.forbiddenMemoryAccess 0xFEA0 .read) = true := by decide

theorem test_V95_operands_below_the_window :
    runs { base with pc := 0xFE9D } [0xC3, 0x00, 0x00] 4 (fun t => t.pc == 0x0000) = true := by decide

theorem test_V96_fetch_before_write :
    faults { base with h := 0xFE, l := 0xFF, pc := 0xFE9F } [0x36, 0x00] (.forbiddenMemoryAccess 0xFEA0 .read) = true := by decide

theorem test_V97_fetch_before_lookup :
    faults { base with pc := 0xE000 } [0xD3] (.forbiddenMemoryAccess 0xE000 .read) = true := by decide

/-! ### One step, by hand from the rule: the registers the vectors leave out, with distinct values -/

/-- R92. -/
theorem test_byte_loads :
    runs { base with b := 0x11, c := 0x22, d := 0x33, e := 0x44, h := 0x55, l := 0x66 } [0x06, 0x99] 2 (fun t => t.b == 0x99) = true ∧
    runs { base with b := 0x11, c := 0x22, d := 0x33, e := 0x44, h := 0x55, l := 0x66 } [0x16, 0x99] 2 (fun t => t.d == 0x99) = true ∧
    runs { base with b := 0x11, c := 0x22, d := 0x33, e := 0x44, h := 0x55, l := 0x66 } [0x1E, 0x99] 2 (fun t => t.e == 0x99) = true ∧
    runs { base with b := 0x11, c := 0x22, d := 0x33, e := 0x44, h := 0x55, l := 0x66 } [0x2E, 0x99] 2 (fun t => t.l == 0x99 && t.h == 0x55) = true := by decide

/-- R100, R120. -/
theorem test_incs :
    runs { base with b := 0x11, c := 0x22, d := 0x33, e := 0x44, h := 0x55, l := 0x66 } [0x0C] 1 (fun t => t.c == 0x23 && t.f == 0x00) = true ∧
    runs { base with b := 0x11, c := 0x22, d := 0x33, e := 0x44, h := 0x55, l := 0x66 } [0x14] 1 (fun t => t.d == 0x34 && t.f == 0x00) = true ∧
    runs { base with b := 0x11, c := 0x22, d := 0x33, e := 0x44, h := 0x55, l := 0x66 } [0x1C] 1 (fun t => t.e == 0x45 && t.f == 0x00) = true ∧
    runs { base with b := 0x11, c := 0x22, d := 0x33, e := 0x44, h := 0x55, l := 0x66 } [0x24] 1 (fun t => t.h == 0x56 && t.f == 0x00) = true ∧
    runs { base with b := 0x11, c := 0x22, d := 0x33, e := 0x44, h := 0x55, l := 0x66 } [0x23] 2 (fun t => t.h == 0x55 && t.l == 0x67 && t.f == 0x80) = true := by decide

/-- R102, R121. -/
theorem test_decs :
    runs { base with b := 0x11, c := 0x22, d := 0x33, e := 0x44, h := 0x55, l := 0x66 } [0x0D] 1 (fun t => t.c == 0x21 && t.f == 0x40) = true ∧
    runs { base with b := 0x11, c := 0x22, d := 0x33, e := 0x44, h := 0x55, l := 0x66 } [0x1D] 1 (fun t => t.e == 0x43 && t.f == 0x40) = true ∧
    runs { base with b := 0x11, c := 0x22, d := 0x33, e := 0x44, h := 0x55, l := 0x66 } [0x25] 1 (fun t => t.h == 0x54 && t.f == 0x40) = true ∧
    runs { base with b := 0x11, c := 0x22, d := 0x33, e := 0x44, h := 0x55, l := 0x66 } [0x2D] 1 (fun t => t.l == 0x65 && t.f == 0x40) = true ∧
    runs { base with b := 0x11, c := 0x22, d := 0x33, e := 0x44, h := 0x55, l := 0x66 } [0x1B] 2 (fun t => t.d == 0x33 && t.e == 0x43 && t.f == 0x80) = true ∧
    runs { base with b := 0x11, c := 0x22, d := 0x33, e := 0x44, h := 0x55, l := 0x66 } [0x2B] 2 (fun t => t.h == 0x55 && t.l == 0x65) = true := by decide

/-- R104, with A = 0x88. -/
theorem test_adds :
    runs { base with a := 0x88, b := 0x11, c := 0x22, d := 0x33, e := 0x44, h := 0x55, l := 0x66 } [0x82] 1 (fun t => t.a == 0xBB && t.f == 0x00) = true ∧
    runs { base with a := 0x88, b := 0x11, c := 0x22, d := 0x33, e := 0x44, h := 0x55, l := 0x66 } [0x83] 1 (fun t => t.a == 0xCC && t.f == 0x00) = true ∧
    runs { base with a := 0x88, b := 0x11, c := 0x22, d := 0x33, e := 0x44, h := 0x55, l := 0x66 } [0x84] 1 (fun t => t.a == 0xDD && t.f == 0x00) = true ∧
    runs { base with a := 0x88, b := 0x11, c := 0x22, d := 0x33, e := 0x44, h := 0x55, l := 0x66 } [0x85] 1 (fun t => t.a == 0xEE && t.f == 0x00) = true := by decide

/-- R107, with A = 0x88. -/
theorem test_subs :
    runs { base with a := 0x88, b := 0x11, c := 0x22, d := 0x33, e := 0x44, h := 0x55, l := 0x66 } [0x91] 1 (fun t => t.a == 0x66 && t.f == 0x40) = true ∧
    runs { base with a := 0x88, b := 0x11, c := 0x22, d := 0x33, e := 0x44, h := 0x55, l := 0x66 } [0x92] 1 (fun t => t.a == 0x55 && t.f == 0x40) = true ∧
    runs { base with a := 0x88, b := 0x11, c := 0x22, d := 0x33, e := 0x44, h := 0x55, l := 0x66 } [0x94] 1 (fun t => t.a == 0x33 && t.f == 0x40) = true ∧
    runs { base with a := 0x88, b := 0x11, c := 0x22, d := 0x33, e := 0x44, h := 0x55, l := 0x66 } [0x95] 1 (fun t => t.a == 0x22 && t.f == 0x40) = true := by decide

/-- R110, with A = 0x88. -/
theorem test_ors :
    runs { base with a := 0x88, b := 0x11, c := 0x22, d := 0x33, e := 0x44, h := 0x55, l := 0x66 } [0xB1] 1 (fun t => t.a == 0xAA && t.f == 0x00) = true ∧
    runs { base with a := 0x88, b := 0x11, c := 0x22, d := 0x33, e := 0x44, h := 0x55, l := 0x66 } [0xB2] 1 (fun t => t.a == 0xBB && t.f == 0x00) = true ∧
    runs { base with a := 0x88, b := 0x11, c := 0x22, d := 0x33, e := 0x44, h := 0x55, l := 0x66 } [0xB3] 1 (fun t => t.a == 0xCC && t.f == 0x00) = true ∧
    runs { base with a := 0x88, b := 0x11, c := 0x22, d := 0x33, e := 0x44, h := 0x55, l := 0x66 } [0xB4] 1 (fun t => t.a == 0xDD && t.f == 0x00) = true ∧
    runs { base with a := 0x88, b := 0x11, c := 0x22, d := 0x33, e := 0x44, h := 0x55, l := 0x66 } [0xB5] 1 (fun t => t.a == 0xEE && t.f == 0x00) = true := by decide

/-- R113, with A = 0x44: below, equal and above. -/
theorem test_cps :
    runs { base with a := 0x44, b := 0x11, c := 0x22, d := 0x33, e := 0x44, h := 0x55, l := 0x66 } [0xB9] 1 (fun t => t.a == 0x44 && t.f == 0x40) = true ∧
    runs { base with a := 0x44, b := 0x11, c := 0x22, d := 0x33, e := 0x44, h := 0x55, l := 0x66 } [0xBA] 1 (fun t => t.f == 0x40) = true ∧
    runs { base with a := 0x44, b := 0x11, c := 0x22, d := 0x33, e := 0x44, h := 0x55, l := 0x66 } [0xBB] 1 (fun t => t.f == 0xC0) = true ∧
    runs { base with a := 0x44, b := 0x11, c := 0x22, d := 0x33, e := 0x44, h := 0x55, l := 0x66 } [0xBC] 1 (fun t => t.f == 0x70) = true ∧
    runs { base with a := 0x44, b := 0x11, c := 0x22, d := 0x33, e := 0x44, h := 0x55, l := 0x66 } [0xBD] 1 (fun t => t.f == 0x70) = true := by decide

/-- The boundaries of the forbidden windows (R46). -/
theorem test_forbidden_boundaries :
    [0x0000, 0xDFFF, 0xE000, 0xFDFF, 0xFE00, 0xFE9F, 0xFEA0, 0xFEFF, 0xFF00, 0xFFFF].map forbidden =
      [false, false, true, true, false, false, true, true, false, false] := by decide

/-- Source vector E6 at the wrap: write_word(FFFF, BEEF), then read_word(FFFF). -/
theorem test_E6_word_wraps :
    (hostWriteWord base 0xFFFF 0xBEEF).1 = .ok () ∧
    (hostWriteWord base 0xFFFF 0xBEEF).2.mem = [(0x0000, 0xBE), (0xFFFF, 0xEF)] ∧
    hostReadWord (hostWriteWord base 0xFFFF 0xBEEF).2 0xFFFF = .ok 0xBEEF := by decide

/-- An image whose cartridge-type byte, at 0x0147, is 0x01. -/
def bankedImage : List Byte := List.replicate 0x0147 0x00 ++ [0x01]

/-- R153: the loader refuses cartridge type 1. -/
theorem test_launch_refuses_type_1 : launch Config.reference bankedImage = .error .unsupportedCartridge := by
  have htype : Memory.byteAt (imageMemory bankedImage) cartridgeTypeAddress = 0x01 :=
    (byteAt_imageMemory (by decide +kernel) _).trans (by decide +kernel)
  rw [launch, htype]
  rfl

/-- R174: the image's bytes stand from 0x0000 on. -/
theorem test_launch_loads :
    (match launch Config.reference [0x31, 0xFE, 0xFF] with
      | .ok s => s.mem == [(0, 0x31), (1, 0xFE), (2, 0xFF)] && s.pc == 0x0100
      | .error _ => false) = true := by decide

/-- Source vector E7 through the bits of the opcode table, from reset. -/
theorem test_E7_withFetchWord :
    (match step (State.reset.withFetchWord 24 0x234501) with
      | .next t => t.pair .bc == 0x2345 && t.pc == 0x0103 && t.cyclesReturned == some 3
      | _ => false) = true := by decide

/-- The diagnostic regions at their bounds (R53). -/
theorem test_regions :
    [0x7FFF, 0x8000, 0xA000, 0xC000, 0xE000, 0xFE00, 0xFEA0, 0xFF00, 0xFF80, 0xFFFF].map region =
      [.rom, .vram, .ram, .wram, .forbidden, .oam, .forbidden, .io, .hram, .ie] := by decide

/-! ### Witnesses: concrete states and operands that meet the hypotheses of each statement -/

/-- `base` with the reads of forbidden windows allowed. -/
def readsAllowed : State := { base with cfg := { Config.reference with forbiddenReadsFault := false } }

/-- `base` with the whole of S in the table. -/
def wholeSet : State := { base with cfg := { Config.reference with implemented := specifiedSet } }

/-- The state `exec` answers, where it completes. -/
def execd (i : Instr) (s : State) : State :=
  match exec i s with
  | .next t => t
  | _ => s

theorem witness_LaunchLoadsTheImage :
    [0x31, 0xFE, 0xFF].length ≤ 0x10000 ∧ ([0x31, 0xFE, 0xFF] : List Byte).getD 0x0147 0x00 = 0x00 := by decide

/-- The cartridge-type byte is the image's last. -/
theorem witness_LaunchLoadsTheImage_type_byte :
    (List.replicate 0x0148 (0x00 : Byte)).length ≤ 0x10000 ∧
      (List.replicate 0x0148 (0x00 : Byte)).getD 0x0147 0x00 = 0x00 := by decide +kernel

theorem witness_OnlyTheLoaderRejectsCartridges :
    bankedImage.length ≤ 0x10000 ∧ bankedImage.getD 0x0147 0x00 ≠ 0x00 := by decide +kernel

theorem witness_PairsAreViewsOfTwoRegisters :
    (Reg16.hl, Reg8.h, Reg8.l) ∈ [(Reg16.bc, Reg8.b, Reg8.c), (.de, .d, .e), (.hl, .h, .l)] := by decide

theorem witness_SetflagWritesOneBit :
    (Flag.c, 4) ∈ [(Flag.z, 7), (.n, 6), (.h, 5), (.c, 4)] ∧ 0 < 8 ∧ 7 < 8 ∧ Flag.z ≠ Flag.c := by decide

theorem witness_LowFlagBitsAreNeverWritten : exec .addAB base = .next (execd .addAB base) := rfl

theorem witness_OnlyTheListedInstructionsWriteFlags_z :
    exec .incB base = .next (execd .incB base) ∧ (execd .incB base).flag .z ≠ base.flag .z :=
  ⟨rfl, by decide⟩

theorem witness_OnlyTheListedInstructionsWriteFlags_c :
    exec (.addAd8 0xFF) base = .next (execd (.addAd8 0xFF) base) ∧
      (execd (.addAd8 0xFF) base).flag .c ≠ base.flag .c := ⟨rfl, by decide⟩

theorem witness_OnlyTheListedInstructionsWriteFlags_none :
    exec (.jpC 0x1234) base = .next (execd (.jpC 0x1234) base) ∧ opcodeOf (.jpC 0x1234) ∈
      [0x00, 0x01, 0x11, 0x21, 0x31, 0x06, 0x0E, 0x16, 0x1E, 0x26, 0x2E, 0x3E, 0x36, 0x32, 0x03, 0x13, 0x23,
       0x33, 0x0B, 0x1B, 0x2B, 0x3B, 0x18, 0x20, 0x28, 0x30, 0x38, 0xC3, 0xC2, 0xCA, 0xD2, 0xDA] :=
  ⟨rfl, by decide⟩

theorem witness_NAndHAreNeverRead :
    (Flag.n = .n ∨ Flag.n = .h) ∧ exec .rra base = .next (execd .rra base) ∧
      exec .incAtHL { base with h := 0xE0 } = .fault (.forbiddenMemoryAccess 0xE04D .read) :=
  ⟨.inl rfl, rfl, rfl⟩

theorem witness_OnlyThreeInstructionsWriteSP :
    exec .incSP base = .next (execd .incSP base) ∧ (execd .incSP base).sp ≠ base.sp := ⟨rfl, by decide⟩

/-- Both ends of both forbidden windows. -/
theorem witness_ByteAccessRule_forbidden :
    List.Forall (fun a : Word =>
      ((0xE000 ≤ a.toNat ∧ a.toNat ≤ 0xFDFF) ∨ (0xFEA0 ≤ a.toNat ∧ a.toNat ≤ 0xFEFF)) ∧
        base.cfg.forbiddenReadsFault = true)
      [0xE000#16, 0xFDFF#16, 0xFEA0#16, 0xFEFF#16] := by decide

/-- The addresses next to both windows and the ends of the address space. -/
theorem witness_ByteAccessRule_allowed :
    List.Forall (fun a : Word =>
      ¬((0xE000 ≤ a.toNat ∧ a.toNat ≤ 0xFDFF) ∨ (0xFEA0 ≤ a.toNat ∧ a.toNat ≤ 0xFEFF)) ∧
        base.mem.wf = true)
      [0x0000#16, 0xDFFF#16, 0xFE00#16, 0xFE9F#16, 0xFF00#16, 0xFFFF#16] := by decide

theorem witness_ByteAccessRule_reads_allowed : readsAllowed.cfg.forbiddenReadsFault = false := by decide

/-- At the wrap, and below and above the windows. -/
theorem witness_WordAccessRule :
    base.mem.wf = true ∧ List.Forall (fun a : Word =>
      forbidden a = false ∧ forbidden (a + 1) = false)
      [0xFFFF#16, 0xDFFE#16, 0xFE00#16, 0xFE9E#16, 0xFF00#16] := by decide

theorem witness_WordAccessFaultsOnFirstForbiddenByte :
    base.cfg.forbiddenReadsFault = true ∧
    (List.Forall (fun a : Word =>
      forbidden a = true)
      [0xE000#16, 0xFDFF#16, 0xFEA0#16, 0xFEFF#16]) ∧
    (List.Forall (fun a : Word =>
      forbidden a = false ∧ forbidden (a + 1) = true)
      [0xDFFF#16, 0xFE9F#16]) := by decide

theorem witness_EncodeOfDecodeIsTheBytes : decode [0x18, 0xFC, 0x00] = .ok (.jr 0xFC, [0x00]) := by decide

theorem witness_DecoderKnowsExactlyTheSpecifiedSet : (0xCB : Byte) ∉ specifiedSet ∧ (0x3E : Byte) ∈ specifiedSet := by
  decide

theorem witness_StepRunsTheDecodedInstruction :
    ReadyToRun (.ldBCd16 0x2345) (loaded base [0x01, 0x45, 0x23]) := by decide

/-- The operands stand across the top of the address space. -/
theorem witness_StepRunsTheDecodedInstruction_wrap :
    ReadyToRun (.jpNC 0x1234) (loaded { base with pc := 0xFFFE } [0xD2, 0x34, 0x12]) := by decide

/-- LD A,d8 in a configuration that extends the table. -/
theorem witness_StepRunsTheDecodedInstruction_ldAd8 :
    ReadyToRun (.ldAd8 0x10) (loaded wholeSet [0x3E, 0x10]) := by decide

theorem witness_OpcodeOutsideTheTableFaults :
    (loaded base [0x3E]).status = .running ∧ Readable (loaded base [0x3E]) base.pc ∧
      (loaded base [0x3E]).cfg.implemented.contains ((loaded base [0x3E]).mem.byteAt base.pc.toNat) = false := by
  decide

/-- A table that lists 0xCB, which is outside S. -/
theorem witness_OpcodeListedOutsideSCountsAsAbsent :
    (loaded { base with cfg := { Config.reference with implemented := [0x01, 0xCB] } } [0xCB]).status = .running ∧
    Readable (loaded { base with cfg := { Config.reference with implemented := [0x01, 0xCB] } } [0xCB]) 0x0200 ∧
    specifiedSet.contains
      ((loaded { base with cfg := { Config.reference with implemented := [0x01, 0xCB] } } [0xCB]).mem.byteAt
        0x0200) = false := by decide

theorem witness_FetchFaultsComeFirst_opcode :
    List.Forall (fun a : Word =>
      ({ base with pc := a } : State).status = .running ∧ ReadFaults { base with pc := a } a)
      [0xE000#16, 0xFDFF#16, 0xFEA0#16, 0xFEFF#16] := by decide

/-- Every opcode with an operand, its first operand byte in a forbidden window (0xE000). -/
theorem witness_FetchFaultsComeFirst_first_operand :
    List.Forall (fun op : Byte =>
      (operandCount op).isSome = true ∧ OpcodeFound op (loaded { wholeSet with pc := 0xDFFF } [op]) ∧
        ReadFaults (loaded { wholeSet with pc := 0xDFFF } [op]) 0xE000)
      [0x01, 0x11, 0x21, 0x31, 0x06, 0x0E, 0x16, 0x1E, 0x26, 0x2E, 0x3E, 0x36, 0xC6, 0xD6, 0xF6, 0xFE, 0x18,
       0x20, 0x28, 0x30, 0x38, 0xC3, 0xC2, 0xCA, 0xD2, 0xDA] := by decide +kernel

/-- Every opcode with a word operand, its second byte alone in a forbidden window (0xFEA0). -/
theorem witness_FetchFaultsComeFirst_second_operand :
    List.Forall (fun op : Byte =>
      operandCount op = some 2 ∧ OpcodeFound op (loaded { base with pc := 0xFE9E } [op]) ∧
        Readable (loaded { base with pc := 0xFE9E } [op]) 0xFE9F ∧
        ReadFaults (loaded { base with pc := 0xFE9E } [op]) 0xFEA0)
      [0x01, 0x11, 0x21, 0x31, 0xC3, 0xC2, 0xCA, 0xD2, 0xDA] := by decide +kernel

theorem witness_FaultingStepRestoresEverything :
    step (loaded { base with h := 0xE0, l := 0x01 } [0x32]) = .fault (.forbiddenMemoryAccess 0xE000 .write) := rfl

theorem witness_FaultedCoreNeverRunsAgain :
    step base = .next (afterStep base) ∧
    step (loaded base [0xD3]) = .fault (.unsupportedOpcode 0xD3 0x0200) ∧
    ({ base with status := .faulted (.unsupportedOpcode 0xD3 0x0200) } : State).status =
      .faulted (.unsupportedOpcode 0xD3 0x0200) := ⟨rfl, rfl, rfl⟩

/-- One of each kind of fault a step can answer, the reads at pc, after it and at HL. -/
theorem witness_StepFaultsAreAccurate :
    step (loaded base [0xD3]) = .fault (.unsupportedOpcode 0xD3 0x0200) ∧
    step (loaded { base with pc := 0xE000 } [0x00]) = .fault (.forbiddenMemoryAccess 0xE000 .read) ∧
    step (loaded { base with pc := 0xFE9E } [0xC3]) = .fault (.forbiddenMemoryAccess 0xFEA0 .read) ∧
    step (loaded { base with h := 0xFE, l := 0xFF } [0x86]) = .fault (.forbiddenMemoryAccess 0xFEFF .read) ∧
    step (loaded { base with h := 0xFE, l := 0xFF } [0x36]) = .fault (.forbiddenMemoryAccess 0xFEFF .write) :=
  ⟨rfl, rfl, rfl, rfl, rfl⟩

theorem witness_EveryStepCompletesOrFaults : State.reset.status = .running := rfl

theorem witness_StepReturnsItsCycleCount :
    (loaded base [0x20, 0x10]).cfg.legal = true ∧
      step (loaded base [0x20, 0x10]) = .next (afterStep (loaded base [0x20, 0x10])) ∧
      step (loaded base [0xD3]) = .fault (.unsupportedOpcode 0xD3 0x0200) := ⟨by decide, rfl, rfl⟩

theorem witness_EveryStepKeepsTheInvariant :
    RunningInv (loaded base [0x36, 0x5A]) ∧
      step (loaded base [0x36, 0x5A]) = .next (afterStep (loaded base [0x36, 0x5A])) := ⟨by decide, rfl⟩

/-- The ends of both windows, beside a step that stores just below one of them. -/
theorem witness_ForbiddenWindowsNeverChange :
    (List.Forall (fun a : Word =>
      ((0xE000 ≤ a.toNat ∧ a.toNat ≤ 0xFDFF) ∨ (0xFEA0 ≤ a.toNat ∧ a.toNat ≤ 0xFEFF)))
      [0xE000#16, 0xFDFF#16, 0xFEA0#16, 0xFEFF#16]) ∧
    step (loaded { base with h := 0xE0, l := 0x00 } [0x32]) =
      .next (afterStep (loaded { base with h := 0xE0, l := 0x00 } [0x32])) := ⟨by decide, rfl⟩

theorem witness_OnlyFourInstructionsWriteMemory :
    exec (.ldAtHLd8 0x5A) base = .next (execd (.ldAtHLd8 0x5A) base) ∧
    (execd (.ldAtHLd8 0x5A) base).mem.byteAt 0x014D ≠ base.mem.byteAt 0x014D ∧
    exec .ldAtHLDecA base = .next (execd .ldAtHLDecA base) ∧
    (execd .ldAtHLDecA base).mem.byteAt 0x014C ≠ base.mem.byteAt 0x014C :=
  ⟨rfl, by decide, rfl, by decide⟩

theorem witness_TableAndCostsChangeNoEffect :
    exec .incB base = .next (execd .incB base) ∧
    exec .incAtHL { base with h := 0xE0 } = .fault (.forbiddenMemoryAccess 0xE04D .read) := ⟨rfl, rfl⟩

/-- LD (HL),0x04 with HL at the byte after it, which is INC B from then on. -/
theorem witness_StoredOpcodeIsFetchedNext :
    ({ base with h := 0x02, l := 0x02 } : State).mem.wf = true ∧
    ({ base with h := 0x02, l := 0x02 } : State).status = .running ∧
    ({ base with h := 0x02, l := 0x02 } : State).pair .hl = base.pc + 2 ∧ forbidden (base.pc + 2) = false ∧
    encode .incB = [opcodeOf .incB] ∧ Instr.incB.inTable base.cfg = true := by decide

theorem witness_NopOnlyMovesThePc : OpcodeFound 0x00 base := by decide

theorem witness_LoadPairImmediateResult :
    ((0x31 : Byte), Reg16.sp) ∈ [((0x01 : Byte), Reg16.bc), (0x11, .de), (0x21, .hl), (0x31, .sp)] ∧
    Reg16.hl ≠ .sp := by decide

theorem witness_LoadRegisterImmediateResult :
    (loaded base [0x3E, 0x10]).cfg.legal = true ∧ (loaded base [0x3E, 0x10]).status = .running ∧
    Readable (loaded base [0x3E, 0x10]) base.pc ∧ (loaded base [0x3E, 0x10]).mem.byteAt base.pc.toNat = 0x3E := by
  decide

/-- HL at the addresses next to the windows, and at their ends. -/
theorem witness_StoreImmediateAtHLResult :
    (List.Forall (fun h : Byte × Byte =>
      forbidden (({ base with h := h.1, l := h.2 } : State).pair .hl) = false)
      [(0xDF#8, 0xFF#8), (0xFE, 0x00), (0xFE, 0x9F), (0xFF, 0x00)]) ∧
    (List.Forall (fun h : Byte × Byte =>
      forbidden (({ base with h := h.1, l := h.2 } : State).pair .hl) = true)
      [(0xE0#8, 0x00#8), (0xFD, 0xFF), (0xFE, 0xA0), (0xFE, 0xFF)]) := by decide

/-- HL one above those addresses, and zero. -/
theorem witness_StoreAAtDecrementedHLResult :
    (List.Forall (fun h : Byte × Byte =>
      forbidden (({ base with h := h.1, l := h.2 } : State).pair .hl - 1) = false)
      [(0xE0#8, 0x00#8), (0xFE, 0x01), (0xFE, 0xA0), (0xFF, 0x01), (0x00, 0x00)]) ∧
    (List.Forall (fun h : Byte × Byte =>
      OpcodeFound 0x32 (loaded { base with h := h.1, l := h.2 } [0x32]) ∧
        forbidden (({ base with h := h.1, l := h.2 } : State).pair .hl - 1) = true)
      [(0xE0#8, 0x01#8), (0xFE, 0x00), (0xFE, 0xA1), (0xFF, 0x00)]) := by decide

/-- INC (HL) and DEC (HL): the three cases of HL and the parameter. -/
theorem witness_IncrementByteAtHLResult :
    forbidden (base.pair .hl) = false ∧ base.mem.wf = true ∧
    forbidden (({ base with h := 0xE0 } : State).pair .hl) = true ∧
    ({ base with h := 0xE0 } : State).cfg.forbiddenReadsFault = true ∧
    forbidden (({ readsAllowed with h := 0xE0 } : State).pair .hl) = true ∧
    ({ readsAllowed with h := 0xE0 } : State).cfg.forbiddenReadsFault = false := by decide

theorem witness_DecrementByteAtHLResult :
    forbidden (({ base with h := 0xFE, l := 0x9F } : State).pair .hl) = false ∧
    forbidden (({ base with h := 0xFE, l := 0xA0 } : State).pair .hl) = true ∧
    base.cfg.forbiddenReadsFault = true ∧ readsAllowed.cfg.forbiddenReadsFault = false := by decide

/-- ADD A,(HL), SUB (HL), OR (HL) and CP (HL): HL where the read works, and where it faults. -/
theorem witness_reads_at_HL :
    Readable base (base.pair .hl) ∧ Readable readsAllowed 0xE04D ∧
    ReadFaults { base with h := 0xFE, l := 0xFF } (({ base with h := 0xFE, l := 0xFF } : State).pair .hl) := by decide

/-- The four conditions, met and not met, of JR cc,r8 and JP cc,a16. -/
theorem witness_ConditionalRelativeJumpResult :
    List.Forall (fun c : Flag × Bool × Byte × Byte =>
      ({ base with f := c.2.2.1 } : State).flag c.1 = c.2.1 ∧
      ({ base with f := c.2.2.2 } : State).flag c.1 ≠ c.2.1)
      [(Flag.z, false, 0x00#8, 0x80#8), (.z, true, 0x80, 0x00), (.c, false, 0x00, 0x10),
       (.c, true, 0x10, 0x00)] := by decide

/-- The list's members that stand for the four absolute conditional jumps, and a flag that meets the last. -/
theorem witness_ConditionalAbsoluteJumpResult :
    ((0xDA : Byte), Flag.c, true) ∈
      [((0xC2 : Byte), Flag.z, false), (0xCA, .z, true), (0xD2, .c, false), (0xDA, .c, true)] ∧
    ({ base with f := 0x10 } : State).flag .c = true ∧ base.flag .c ≠ true := by decide

/-- The membership hypotheses of the register forms: their last members. -/
theorem witness_register_forms :
    ((Instr.incA, (0x3C : Byte), Reg8.a) ∈
      [(Instr.incB, (0x04 : Byte), Reg8.b), (.incC, 0x0C, .c), (.incD, 0x14, .d), (.incE, 0x1C, .e),
       (.incH, 0x24, .h), (.incL, 0x2C, .l), (.incA, 0x3C, .a)]) ∧
    ((Instr.addHLSP, (0x39 : Byte), Reg16.sp) ∈
      [(Instr.addHLBC, (0x09 : Byte), Reg16.bc), (.addHLDE, 0x19, .de), (.addHLHL, 0x29, .hl),
       (.addHLSP, 0x39, .sp)]) ∧
    ((Instr.decSP, (0x3B : Byte), Reg16.sp, ([] : List Reg8)) ∈
      [(Instr.decBC, (0x0B : Byte), Reg16.bc, [Reg8.b, Reg8.c]), (.decDE, 0x1B, .de, [.d, .e]),
       (.decHL, 0x2B, .hl, [.h, .l]), (.decSP, 0x3B, .sp, [])]) := by decide

end Sys2Proof.Tests
end

section
/-! The fetch of an opcode without a handler (00_scope.md R7; 30_encoding.md R67, R70). -/

namespace Sys2Proof.Machine

theorem fetch8_of_readable {s : State} (hr : Readable s s.pc) :
    fetch8 s = .ok (s.mem.byteAt s.pc.toNat, s.advance 1) := by
  rcases fetch8_cases s with ⟨hfetch, _⟩ | ⟨_, hfaults⟩
  · exact hfetch
  · exact absurd hfaults (readable_not_faulting hr)

/-- Outside S the look-up finds no handler, whatever the table lists (log 19). -/
theorem lookupHandler_of_outside (cfg : Config) {op : Byte} (hout : specifiedSet.contains op = false) :
    lookupHandler cfg op = none := by
  unfold lookupHandler
  split
  case isTrue => exact operandCount_of_outside hout
  case isFalse => rfl

/-- The look-up comes right after the opcode byte's read, so no operand byte can fault before it. -/
theorem fetchInstr_of_lookupHandler_none {s : State} (hr : Readable s s.pc)
    (hnone : lookupHandler s.cfg (s.mem.byteAt s.pc.toNat) = none) :
    fetchInstr s = .error (.unsupportedOpcode (s.mem.byteAt s.pc.toNat) s.pc) := by
  simp only [fetchInstr, fetch8_of_readable hr, hnone]

theorem step_of_lookupHandler_none {s : State} (hs : s.status = .running) (hr : Readable s s.pc)
    (hnone : lookupHandler s.cfg (s.mem.byteAt s.pc.toNat) = none) :
    step s = .fault (.unsupportedOpcode (s.mem.byteAt s.pc.toNat) s.pc) := by
  rw [step_of_running hs, fetchInstr_of_lookupHandler_none hr hnone]

/-- Settles O26: the opcode map has no row outside S, so the look-up in any table answers no handler. -/
theorem opcodeListedOutsideSCountsAsAbsent : Obligations.OpcodeListedOutsideSCountsAsAbsent := by
  intro s hs hr hout
  exact step_of_lookupHandler_none hs hr (lookupHandler_of_outside s.cfg hout)

end Sys2Proof.Machine
end

section
/-! Power-on, the invariant and the frame facts that `exec_next_effects` carries (10_state.md R27, R29, R33,
R34). -/

namespace Sys2Proof.Machine

/-! ### The invariant of a running machine -/

/-- A store in any of the listed places keeps the canonical form. -/
theorem StoresAsListed.mem_wf {i : Instr} {s t : State} (hstores : StoresAsListed i s t)
    (hwf : s.mem.wf = true) : t.mem.wf = true := by
  rcases hstores with hmem | ⟨-, -, v, hmem⟩ | ⟨-, -, v, hmem⟩
  · rwa [hmem]
  · rw [hmem]
    exact setByte_wf hwf _ v
  · rw [hmem]
    exact setByte_wf hwf _ v

theorem runningInv_of_effects {i : Instr} {s t : State} (heff : Effects i s t) (hinv : RunningInv s) :
    RunningInv t := by
  obtain ⟨hwf, hlowF, hstatus, hlegal⟩ := hinv
  exact ⟨heff.mem.mem_wf hwf, heff.lowF.trans hlowF, heff.status.trans hstatus,
    (congrArg Config.legal heff.cfg).trans hlegal⟩

/-- Settles O33: the listed effects of the instruction that the step ran keep each part of the invariant. -/
theorem everyStepKeepsTheInvariant : Obligations.EveryStepKeepsTheInvariant := by
  intro s t hinv hnext
  obtain ⟨_, i, _, hexec⟩ := step_next hnext
  exact runningInv_of_effects (exec_next_effects hexec) hinv

/-- Settles O34. -/
theorem powerOnMeetsTheInvariant : Obligations.PowerOnMeetsTheInvariant :=
  ⟨reset_mem_wf, rfl, rfl, by decide⟩

/-- Settles O1: every value is a field of `State.reset`, or computed from its fields. -/
theorem powerOnRegisterFile : Obligations.PowerOnRegisterFile := by
  unfold Obligations.PowerOnRegisterFile
  decide

/-! ### F's low bits and SP -/

/-- Settles O6, from the effects listed for every instruction. -/
theorem lowFlagBitsAreNeverWritten : Obligations.LowFlagBitsAreNeverWritten :=
  ⟨rfl, fun _ _ _ hnext => (exec_next_effects hnext).lowF⟩

/-- Settles O9, from the effects listed for every instruction. -/
theorem onlyThreeInstructionsWriteSP : Obligations.OnlyThreeInstructionsWriteSP :=
  fun _ _ _ hnext hsp => (exec_next_effects hnext).sp.resolve_left hsp

/-! ### A faulted core (60_exceptions.md R158) -/

theorem afterStep_of_faulted {s : State} {f : Fault} (hs : s.status = .faulted f) : afterStep s = s := by
  simp [afterStep, step_of_faulted hs]

theorem afterSteps_of_faulted {s : State} {f : Fault} (hs : s.status = .faulted f) (k : Nat) :
    afterSteps k s = s := by
  induction k with
  | zero => rfl
  | succ k ih => rw [afterSteps, afterStep_of_faulted hs, ih]

theorem step_next_status {s t : State} (hnext : step s = .next t) : t.status = .running := by
  obtain ⟨hs, i, _, hexec⟩ := step_next hnext
  exact (exec_next_effects hexec).status.trans hs

/-- Settles O29: the fault's state is a fixed point of a call of `step`. -/
theorem faultedCoreNeverRunsAgain : Obligations.FaultedCoreNeverRunsAgain := by
  refine ⟨fun s t => step_next_status, fun s f hfault k => ?_, fun s f hs => ?_⟩
  · rw [afterSteps, afterStep_of_fault hfault]
    exact afterSteps_of_faulted (takeFault_status s f) k
  · exact ⟨by simp [step_of_faulted hs], by simp [step_of_faulted hs], afterStep_of_faulted hs⟩

end Sys2Proof.Machine
end

section
/-! Pairs as views of two registers (10_state.md R23) and the single-bit flag write (R25, R26). -/

namespace Sys2Proof.Machine

/-! ### Pairs -/

/-- `p` is the pair with high register `hi` and low register `lo`: its read joins their bytes and its write
is one write to each. -/
structure PairOf (p : Reg16) (hi lo : Reg8) : Prop where
  ne : hi ≠ lo
  read : ∀ s : State, s.pair p = wordOfBytes (s.reg hi) (s.reg lo)
  write : ∀ (s : State) (v : Word), s.setPair p v = (s.setReg hi (highByte v)).setReg lo (lowByte v)

theorem pairOf_of_listed {p : Reg16} {hi lo : Reg8}
    (hlisted : (p, hi, lo) ∈ [(Reg16.bc, Reg8.b, Reg8.c), (.de, .d, .e), (.hl, .h, .l)]) :
    PairOf p hi lo := by
  simp only [List.mem_cons, Prod.mk.injEq, List.not_mem_nil, or_false] at hlisted
  rcases hlisted with ⟨rfl, rfl, rfl⟩ | ⟨rfl, rfl, rfl⟩ | ⟨rfl, rfl, rfl⟩ <;>
    exact ⟨by decide, fun _ => rfl, fun _ _ => rfl⟩

section PairWrite
variable {p : Reg16} {hi lo : Reg8} (hpair : PairOf p hi lo) (s : State) (v : Word)
include hpair

theorem setPair_reg_high : (s.setPair p v).reg hi = highByte v := by
  rw [hpair.write, setReg_reg_ne _ _ hpair.ne, setReg_reg_same]

theorem setPair_reg_low : (s.setPair p v).reg lo = lowByte v := by
  rw [hpair.write, setReg_reg_same]

theorem setPair_keepsRegsBut : KeepsRegsBut [hi, lo] s (s.setPair p v) := by
  intro r hr
  obtain ⟨hhi, hlo⟩ : r ≠ hi ∧ r ≠ lo := by simpa using hr
  rw [hpair.write, setReg_reg_ne _ _ hlo, setReg_reg_ne _ _ hhi]

theorem setPair_sp_of_pairOf : (s.setPair p v).sp = s.sp := by
  rw [hpair.write, setReg_sp, setReg_sp]

end PairWrite

/-- Settles O4: the read is a join of two bytes, and the write is a write to each of two registers. -/
theorem pairsAreViewsOfTwoRegisters : Obligations.PairsAreViewsOfTwoRegisters := by
  intro p hi lo hlisted s
  have hpair := pairOf_of_listed hlisted
  refine ⟨by rw [hpair.read, toNat_wordOfBytes], fun v => ⟨?_, ?_, setPair_pair_same s p v,
    setPair_keepsRegsBut hpair s v, setPair_f s p v, setPair_sp_of_pairOf hpair s v, setPair_pc s p v,
    setPair_mem s p v⟩⟩
  · rw [setPair_reg_high hpair, toNat_highByte]
  · rw [setPair_reg_low hpair, toNat_lowByte]

/-! ### setflag -/

theorem Flag.bit_injective : Function.Injective Flag.bit := by
  intro fl g
  cases fl <;> cases g <;> decide

/-- Writes to different flags hit different bits, so each bit of F is the same in either order. -/
theorem setFlag_comm {fl g : Flag} (hne : fl ≠ g) (s : State) (v w : Bool) :
    (s.setFlag fl v).setFlag g w = (s.setFlag g w).setFlag fl v := by
  have hbit : fl.bit ≠ g.bit := fun heq => hne (Flag.bit_injective heq)
  have hf : ((s.setFlag fl v).setFlag g w).f = ((s.setFlag g w).setFlag fl v).f := by
    refine BitVec.eq_of_getLsbD_eq fun j hj => ?_
    rw [setFlag_f_bit _ _ _ j hj, setFlag_f_bit _ _ _ j hj, setFlag_f_bit _ _ _ j hj,
      setFlag_f_bit _ _ _ j hj]
    by_cases hg : j = g.bit
    · rw [if_pos hg, if_pos hg, if_neg fun hfl => hbit (hfl.symm.trans hg)]
    · rw [if_neg hg, if_neg hg]
  exact congrArg (fun f => ({ s with f := f } : State)) hf

/-- Settles O5: `setFlag_f_bit` says what becomes of each bit. -/
theorem setflagWritesOneBit : Obligations.SetflagWritesOneBit := by
  refine ⟨fun fl bit hlisted s v => ?_, fun _ _ _ => rfl, fun s fl g v w hne => setFlag_comm hne s v w⟩
  obtain rfl : bit = fl.bit := by
    simp only [List.mem_cons, Prod.mk.injEq, List.not_mem_nil, or_false] at hlisted
    rcases hlisted with ⟨rfl, rfl⟩ | ⟨rfl, rfl⟩ | ⟨rfl, rfl⟩ | ⟨rfl, rfl⟩ <;> rfl
  exact ⟨rfl, setFlag_f_bit s fl v⟩

end Sys2Proof.Machine
end

section
/-! The twelve forms an instruction's meaning takes, so that a fact about every instruction is a case
split over the forms. `exec_eq_run` ties them to `exec`. -/

namespace Sys2Proof.Machine

/-- Where an ALU instruction takes its source byte (42_arith8.md R104 to R115). -/
inductive Source where
  | reg (r : Reg8)
  | atHL
  | imm (n : Byte)

/-- The instruction's length in bytes. -/
def Source.length : Source → Nat
  | .imm _ => 2
  | _ => 1

/-- Goes on with the source byte, or faults reading it. -/
def withSource (s : State) (k : Byte → Host.Outcome State Fault Refusal) :
    Source → Host.Outcome State Fault Refusal
  | .reg r => k (s.reg r)
  | .atHL => withByteAtHL s k
  | .imm n => k n

/-- The operations that combine A with a source byte. -/
inductive AluOp where
  | add | sub | or | cp

/-- The operation's effect, given the source byte. -/
def AluOp.effect : AluOp → Byte → State → State
  | .add => addToA
  | .sub => subFromA
  | .or => orIntoA
  | .cp => compareWithA

/-- inc8, or dec8 when `down`. -/
def incOrDec (down : Bool) (n : Byte) : Step8 := if down then dec8 n else inc8 n

/-- The forms. A function argument gets the words and bytes the form may read and nothing else. -/
inductive Form where
  | nop
  /-- LD r,d8 -/
  | loadReg (r : Reg8) (n : Byte)
  /-- LD rr,d16, INC rr, DEC rr: the new value of a pair from its old one -/
  | pair (length : Nat) (p : Reg16) (update : Word → Word)
  /-- LD (HL),d8 -/
  | storeAtHL (n : Byte)
  /-- LD (HL-),A -/
  | storeDecA
  /-- INC r, DEC r -/
  | incDecReg (down : Bool) (r : Reg8)
  /-- INC (HL), DEC (HL) -/
  | incDecAtHL (down : Bool)
  /-- ADD HL,rr -/
  | addHL (p : Reg16)
  /-- ADD A, SUB, OR and CP with each source -/
  | alu (g : AluOp) (src : Source)
  /-- XOR A, RLCA, RRA: the new A from the old A and C, a fixed Z, the new C from the old A -/
  | accumulator (newA : Byte → Bool → Byte) (z : Bool) (newC : Byte → Bool)
  /-- JR r8, JP a16 -/
  | jump (target : Word → Word)
  /-- JR cc,r8, JP cc,a16 -/
  | jumpIf (cc : Cond) (length : Nat) (target : Word → Word)

/-- The meaning of a form for opcode `op`. -/
def Form.run (op : Byte) (s : State) : Form → Host.Outcome State Fault Refusal
  | .nop => retire op 1 s
  | .loadReg r n => retire op 2 (s.setReg r n)
  | .pair length p update => retire op length (s.setPair p (update (s.pair p)))
  | .storeAtHL n => withStoreAtHL s n (retire op 2)
  | .storeDecA => withStoreAtHL (s.setPair .hl (s.pair .hl - 1)) s.a (retire op 1)
  | .incDecReg down r =>
    retire op 1 ((s.setReg r (incOrDec down (s.reg r)).result).setStepFlags (incOrDec down (s.reg r)) down)
  | .incDecAtHL down =>
    withByteAtHL s fun n => withStoreAtHL s (incOrDec down n).result fun t =>
      retire op 1 (t.setStepFlags (incOrDec down n) down)
  | .addHL p => addPairToHL op p s
  | .alu g src => withSource s (fun b => retire op src.length (g.effect b s)) src
  | .accumulator newA z newC =>
    retire op 1 ({ s with a := newA s.a (s.flag .c) }.setFlags z false false (newC s.a))
  | .jump target => returnCycles (s.cfg.cycles op) { s with pc := target s.pc }
  | .jumpIf cc length target => jumpWhen op length (s.condition cc) target s

/-- The form of an instruction. -/
def formOf : Instr → Form
  | .nop => .nop
  | .ldBd8 n => .loadReg .b n
  | .ldCd8 n => .loadReg .c n
  | .ldDd8 n => .loadReg .d n
  | .ldEd8 n => .loadReg .e n
  | .ldHd8 n => .loadReg .h n
  | .ldLd8 n => .loadReg .l n
  | .ldAd8 n => .loadReg .a n
  | .ldBCd16 nn => .pair 3 .bc fun _ => nn
  | .ldDEd16 nn => .pair 3 .de fun _ => nn
  | .ldHLd16 nn => .pair 3 .hl fun _ => nn
  | .ldSPd16 nn => .pair 3 .sp fun _ => nn
  | .incBC => .pair 1 .bc (· + 1)
  | .incDE => .pair 1 .de (· + 1)
  | .incHL => .pair 1 .hl (· + 1)
  | .incSP => .pair 1 .sp (· + 1)
  | .decBC => .pair 1 .bc (· - 1)
  | .decDE => .pair 1 .de (· - 1)
  | .decHL => .pair 1 .hl (· - 1)
  | .decSP => .pair 1 .sp (· - 1)
  | .ldAtHLd8 n => .storeAtHL n
  | .ldAtHLDecA => .storeDecA
  | .incB => .incDecReg false .b
  | .incC => .incDecReg false .c
  | .incD => .incDecReg false .d
  | .incE => .incDecReg false .e
  | .incH => .incDecReg false .h
  | .incL => .incDecReg false .l
  | .incA => .incDecReg false .a
  | .incAtHL => .incDecAtHL false
  | .decB => .incDecReg true .b
  | .decC => .incDecReg true .c
  | .decD => .incDecReg true .d
  | .decE => .incDecReg true .e
  | .decH => .incDecReg true .h
  | .decL => .incDecReg true .l
  | .decA => .incDecReg true .a
  | .decAtHL => .incDecAtHL true
  | .addHLBC => .addHL .bc
  | .addHLDE => .addHL .de
  | .addHLHL => .addHL .hl
  | .addHLSP => .addHL .sp
  | .addAB => .alu .add (.reg .b)
  | .addAC => .alu .add (.reg .c)
  | .addAD => .alu .add (.reg .d)
  | .addAE => .alu .add (.reg .e)
  | .addAH => .alu .add (.reg .h)
  | .addAL => .alu .add (.reg .l)
  | .addAA => .alu .add (.reg .a)
  | .addAAtHL => .alu .add .atHL
  | .addAd8 n => .alu .add (.imm n)
  | .subB => .alu .sub (.reg .b)
  | .subC => .alu .sub (.reg .c)
  | .subD => .alu .sub (.reg .d)
  | .subE => .alu .sub (.reg .e)
  | .subH => .alu .sub (.reg .h)
  | .subL => .alu .sub (.reg .l)
  | .subA => .alu .sub (.reg .a)
  | .subAtHL => .alu .sub .atHL
  | .subd8 n => .alu .sub (.imm n)
  | .orB => .alu .or (.reg .b)
  | .orC => .alu .or (.reg .c)
  | .orD => .alu .or (.reg .d)
  | .orE => .alu .or (.reg .e)
  | .orH => .alu .or (.reg .h)
  | .orL => .alu .or (.reg .l)
  | .orA => .alu .or (.reg .a)
  | .orAtHL => .alu .or .atHL
  | .ord8 n => .alu .or (.imm n)
  | .cpB => .alu .cp (.reg .b)
  | .cpC => .alu .cp (.reg .c)
  | .cpD => .alu .cp (.reg .d)
  | .cpE => .alu .cp (.reg .e)
  | .cpH => .alu .cp (.reg .h)
  | .cpL => .alu .cp (.reg .l)
  | .cpA => .alu .cp (.reg .a)
  | .cpAtHL => .alu .cp .atHL
  | .cpd8 n => .alu .cp (.imm n)
  | .xorA => .accumulator (fun _ _ => 0x00) true fun _ => false
  | .rlca => .accumulator (fun a _ => (a <<< 1) ||| (a >>> 7)) false fun a => a.getLsbD 7
  | .rra => .accumulator (fun a cin => carryInBit7 cin ||| (a >>> 1)) false fun a => a.getLsbD 0
  | .jr e => .jump fun pc => addSigned (pc + BitVec.ofNat 16 2) e
  | .jp nn => .jump fun _ => nn
  | .jrNZ e => .jumpIf .nz 2 fun pc => addSigned pc e
  | .jrZ e => .jumpIf .z 2 fun pc => addSigned pc e
  | .jrNC e => .jumpIf .nc 2 fun pc => addSigned pc e
  | .jrC e => .jumpIf .c 2 fun pc => addSigned pc e
  | .jpNZ nn => .jumpIf .nz 3 fun _ => nn
  | .jpZ nn => .jumpIf .z 3 fun _ => nn
  | .jpNC nn => .jumpIf .nc 3 fun _ => nn
  | .jpC nn => .jumpIf .c 3 fun _ => nn

/-- Each instruction's meaning is that of its form. -/
theorem exec_eq_run (i : Instr) (s : State) : exec i s = (formOf i).run (opcodeOf i) s := by
  cases i <;> rfl

end Sys2Proof.Machine
end

section
/-! Which flags a completed instruction can change (10_state.md R28). -/

namespace Sys2Proof.Machine

/-- The flags a form writes (R28). -/
def Form.flagsWritten : Form → List Flag
  | .incDecReg _ _ | .incDecAtHL _ => [.z, .n, .h]
  | .addHL _ => [.n, .h, .c]
  | .alu _ _ | .accumulator _ _ _ => [.z, .n, .h, .c]
  | _ => []

theorem retire_next_flag {op : Byte} {n : Nat} {x t : State} (hnext : retire op n x = .next t) (fl : Flag) :
    t.flag fl = x.flag fl := by
  rw [retire_next hnext]
  rfl

theorem withByteAtHL_next {s t : State} {k : Byte → Host.Outcome State Fault Refusal}
    (hnext : withByteAtHL s k = .next t) : k (s.mem.byteAt (s.pair .hl).toNat) = .next t := by
  rcases withByteAtHL_cases s k with ⟨hk, _⟩ | ⟨hfault, _⟩
  · exact hk.symm.trans hnext
  · cases hfault.symm.trans hnext

theorem withStoreAtHL_next {s t : State} {v : Byte} {k : State → Host.Outcome State Fault Refusal}
    (hnext : withStoreAtHL s v k = .next t) :
    k { s with mem := s.mem.setByte (s.pair .hl).toNat v } = .next t := by
  rcases withStoreAtHL_cases s v k with ⟨hk, _⟩ | ⟨hfault, _⟩
  · exact hk.symm.trans hnext
  · cases hfault.symm.trans hnext

theorem setStepFlags_flag_of_notMem {fl : Flag} (hfl : fl ∉ [Flag.z, .n, .h]) (x : State) (r : Step8)
    (n : Bool) : (x.setStepFlags r n).flag fl = x.flag fl := by
  obtain rfl : fl = .c := by cases fl <;> simp at hfl ⊢
  exact setStepFlags_flag x r n .c

theorem Flag.mem_all (fl : Flag) : fl ∈ [Flag.z, .n, .h, .c] := by
  cases fl <;> decide

/-- ADD HL,rr leaves Z alone (43_arith16.md R122). -/
theorem addPairToHL_next_z {op : Byte} {p : Reg16} {s t : State} (hnext : addPairToHL op p s = .next t) :
    t.flag .z = s.flag .z := by
  rw [retire_next_flag hnext, flag_setFlag_ne _ _ (by decide), flag_setFlag_ne _ _ (by decide),
    flag_setFlag_ne _ _ (by decide), setPair_flag]

/-- A completed form leaves every flag that it is not listed to write. -/
theorem Form.run_next_flag {form : Form} {op : Byte} {s t : State} (hnext : form.run op s = .next t)
    {fl : Flag} (hfl : fl ∉ form.flagsWritten) : t.flag fl = s.flag fl := by
  cases form with
  | nop => exact retire_next_flag hnext fl
  | loadReg r n => rw [retire_next_flag hnext fl, setReg_flag]
  | pair length p update => rw [retire_next_flag hnext fl, setPair_flag]
  | storeAtHL n => exact retire_next_flag (withStoreAtHL_next hnext) fl
  | storeDecA => exact retire_next_flag (withStoreAtHL_next hnext) fl
  | incDecReg down r =>
    rw [retire_next_flag hnext fl, setStepFlags_flag_of_notMem hfl, setReg_flag]
  | incDecAtHL down =>
    have hstored := withStoreAtHL_next (withByteAtHL_next hnext)
    rw [retire_next_flag hstored fl, setStepFlags_flag_of_notMem hfl, with_mem_flag]
  | addHL p =>
    obtain rfl : fl = .z := by cases fl <;> simp [Form.flagsWritten] at hfl ⊢
    exact addPairToHL_next_z hnext
  | alu g src => exact absurd fl.mem_all hfl
  | accumulator newA z newC => exact absurd fl.mem_all hfl
  | jump target =>
    rw [returnCycles_next hnext]
    rfl
  | jumpIf cc length target =>
    cases (jumpWhen_eq ..).symm.trans hnext
    rfl

theorem exec_next_flag {i : Instr} {s t : State} (hnext : exec i s = .next t) {fl : Flag}
    (hfl : fl ∉ (formOf i).flagsWritten) : t.flag fl = s.flag fl :=
  Form.run_next_flag ((exec_eq_run i s).symm.trans hnext) hfl

/-- F is its four flags and its low bits. -/
theorem f_eq_of_flags {s t : State} (hflag : ∀ fl, t.flag fl = s.flag fl) (hlow : KeepsLowF s t) :
    t.f = s.f := by
  refine BitVec.eq_of_getLsbD_eq fun j hj => ?_
  by_cases hj4 : j < 4
  · simpa [hj4] using congrArg (fun v => v.getLsbD j) hlow
  · obtain rfl | rfl | rfl | rfl : j = 7 ∨ j = 6 ∨ j = 5 ∨ j = 4 := by omega
    · exact hflag .z
    · exact hflag .n
    · exact hflag .h
    · exact hflag .c

/-- The opcodes of the instructions that write Z (R28). -/
def zWriters : List Byte :=
  [0x04, 0x0C, 0x14, 0x1C, 0x24, 0x2C, 0x34, 0x3C, 0x05, 0x0D, 0x15, 0x1D, 0x25, 0x2D, 0x35, 0x3D,
   0x80, 0x81, 0x82, 0x83, 0x84, 0x85, 0x86, 0x87, 0xC6, 0x90, 0x91, 0x92, 0x93, 0x94, 0x95, 0x96, 0x97,
   0xD6, 0xB0, 0xB1, 0xB2, 0xB3, 0xB4, 0xB5, 0xB6, 0xB7, 0xF6, 0xB8, 0xB9, 0xBA, 0xBB, 0xBC, 0xBD, 0xBE,
   0xBF, 0xFE, 0xAF, 0x07, 0x1F]

/-- The opcodes of the instructions that write C (R28). -/
def cWriters : List Byte :=
  [0x09, 0x19, 0x29, 0x39, 0x80, 0x81, 0x82, 0x83, 0x84, 0x85, 0x86, 0x87, 0xC6, 0x90, 0x91, 0x92, 0x93,
   0x94, 0x95, 0x96, 0x97, 0xD6, 0xB0, 0xB1, 0xB2, 0xB3, 0xB4, 0xB5, 0xB6, 0xB7, 0xF6, 0xB8, 0xB9, 0xBA,
   0xBB, 0xBC, 0xBD, 0xBE, 0xBF, 0xFE, 0xAF, 0x07, 0x1F]

/-- The opcodes of the instructions that write no flag (R28, D12, D13). -/
def flagKeepers : List Byte :=
  [0x00, 0x01, 0x11, 0x21, 0x31, 0x06, 0x0E, 0x16, 0x1E, 0x26, 0x2E, 0x3E, 0x36, 0x32, 0x03, 0x13, 0x23,
   0x33, 0x0B, 0x1B, 0x2B, 0x3B, 0x18, 0x20, 0x28, 0x30, 0x38, 0xC3, 0xC2, 0xCA, 0xD2, 0xDA]

theorem opcodeOf_mem_zWriters {i : Instr} (hz : .z ∈ (formOf i).flagsWritten) : opcodeOf i ∈ zWriters := by
  cases i <;> simp [formOf, Form.flagsWritten, opcodeOf, zWriters] at hz ⊢

theorem opcodeOf_mem_cWriters {i : Instr} (hc : .c ∈ (formOf i).flagsWritten) : opcodeOf i ∈ cWriters := by
  cases i <;> simp [formOf, Form.flagsWritten, opcodeOf, cWriters] at hc ⊢

theorem flagsWritten_of_mem_flagKeepers {i : Instr} (hi : opcodeOf i ∈ flagKeepers) :
    (formOf i).flagsWritten = [] := by
  cases i <;> simp [formOf, Form.flagsWritten, opcodeOf, flagKeepers] at hi ⊢

/-- Settles O7: a flag that changed is among those the instruction's form writes, and F is as before where
the form writes none. -/
theorem onlyTheListedInstructionsWriteFlags : Obligations.OnlyTheListedInstructionsWriteFlags := by
  intro i s t hnext
  refine ⟨fun hz => opcodeOf_mem_zWriters ?_, fun hc => opcodeOf_mem_cWriters ?_, fun hi => ?_⟩
  · exact Decidable.byContradiction fun hnot => hz (exec_next_flag hnext hnot)
  · exact Decidable.byContradiction fun hnot => hc (exec_next_flag hnext hnot)
  · refine f_eq_of_flags (fun fl => exec_next_flag hnext ?_) (exec_next_effects hnext).lowF
    rw [flagsWritten_of_mem_flagKeepers hi]
    exact List.not_mem_nil

end Sys2Proof.Machine
end

section
/-! Non-interference of N and H (10_state.md R28): machines that agree but for N and H run every instruction
to machines that agree but for N and H, or to the same fault. -/

namespace Sys2Proof.Machine

/-- The outcomes of two runs agree: next states but for N and H, faults and refusals wholly. -/
def OutcomesAgree : Host.Outcome State Fault Refusal → Host.Outcome State Fault Refusal → Prop
  | .next t, .next u => AgreeButNAndH t u
  | .fault f, .fault g => f = g
  | .refused r, .refused q => r = q
  | _, _ => False

theorem outcomesAgree_next {x y : Host.Outcome State Fault Refusal} {t : State} (hagree : OutcomesAgree x y)
    (hx : x = .next t) : ∃ u, y = .next u ∧ AgreeButNAndH t u := by
  subst hx
  cases y with
  | next u => exact ⟨u, rfl, hagree⟩
  | fault g => exact hagree.elim
  | refused q => exact hagree.elim

theorem outcomesAgree_fault {x y : Host.Outcome State Fault Refusal} {f : Fault} (hagree : OutcomesAgree x y)
    (hx : x = .fault f) : y = .fault f := by
  subst hx
  cases y with
  | next u => exact hagree.elim
  | fault g => exact congrArg _ hagree.symm
  | refused q => exact hagree.elim

theorem agreeButNAndH_setFlag_self (s : State) {fl : Flag} (v : Bool) (hfl : fl = .n ∨ fl = .h) :
    AgreeButNAndH s (s.setFlag fl v) := by
  rcases hfl with rfl | rfl <;>
    exact ⟨rfl, flag_setFlag_ne _ _ (by decide), flag_setFlag_ne _ _ (by decide), lowF_setFlag _ _ _⟩

section Agree
variable {s u : State} (hagree : AgreeButNAndH s u)
include hagree

/-! ### What the meanings read is the same -/

theorem AgreeButNAndH.exists_f : ∃ f, u = { s with f := f } := ⟨u.f, hagree.1⟩

theorem AgreeButNAndH.reg (r : Reg8) : u.reg r = s.reg r := by
  obtain ⟨f, rfl⟩ := hagree.exists_f
  cases r <;> rfl

theorem AgreeButNAndH.pair (p : Reg16) : u.pair p = s.pair p := by
  obtain ⟨f, rfl⟩ := hagree.exists_f
  cases p <;> rfl

theorem AgreeButNAndH.flag_c : u.flag .c = s.flag .c := by
  obtain ⟨-, -, hc, -⟩ := hagree
  exact hc

/-- The conditions read Z or C. -/
theorem AgreeButNAndH.condition (cc : Cond) : u.condition cc = s.condition cc := by
  obtain ⟨-, hz, hc, -⟩ := hagree
  cases cc <;> simp only [State.condition, hz, hc]

/-! ### What the meanings write keeps the agreement -/

/-- An update that neither reads nor writes F. -/
theorem AgreeButNAndH.update (upd : State → State)
    (hupd : ∀ x f, upd { x with f := f } = { upd x with f := f }) : AgreeButNAndH (upd s) (upd u) := by
  have hf : ∀ x, (upd x).f = x.f := fun x => (congrArg State.f (hupd x x.f) :)
  obtain ⟨hu, hz, hc, hlow⟩ := hagree
  refine ⟨?_, ?_, ?_, ?_⟩
  · rw [hf u, ← hupd, ← hu]
  · simpa only [State.flag, hf] using hz
  · simpa only [State.flag, hf] using hc
  · simpa only [hf] using hlow

theorem AgreeButNAndH.setReg (r : Reg8) (v : Byte) : AgreeButNAndH (s.setReg r v) (u.setReg r v) :=
  hagree.update (·.setReg r v) fun x f => by cases r <;> rfl

theorem AgreeButNAndH.setPair (p : Reg16) (v : Word) : AgreeButNAndH (s.setPair p v) (u.setPair p v) :=
  hagree.update (·.setPair p v) fun x f => by cases p <;> rfl

theorem AgreeButNAndH.setFlag (fl : Flag) (v : Bool) : AgreeButNAndH (s.setFlag fl v) (u.setFlag fl v) := by
  obtain ⟨hu, hz, hc, hlow⟩ := hagree
  refine ⟨?_, ?_, ?_, ?_⟩
  · exact congrArg (fun x : State => { x with f := (u.setFlag fl v).f }) hu
  · rw [flag_setFlag, flag_setFlag, hz]
  · rw [flag_setFlag, flag_setFlag, hc]
  · rw [lowF_setFlag, lowF_setFlag, hlow]

theorem AgreeButNAndH.setFlags (z n h c : Bool) :
    AgreeButNAndH (s.setFlags z n h c) (u.setFlags z n h c) :=
  (((hagree.setFlag .z z).setFlag .n n).setFlag .h h).setFlag .c c

theorem AgreeButNAndH.setStepFlags (r : Step8) (n : Bool) :
    AgreeButNAndH (s.setStepFlags r n) (u.setStepFlags r n) :=
  ((hagree.setFlag .z r.zero).setFlag .n n).setFlag .h r.halfCarry

theorem AgreeButNAndH.setA (v : Byte) : AgreeButNAndH { s with a := v } { u with a := v } :=
  hagree.update ({ · with a := v }) fun _ _ => rfl

theorem AgreeButNAndH.aluEffect (g : AluOp) (b : Byte) : AgreeButNAndH (g.effect b s) (g.effect b u) := by
  have ha : u.a = s.a := hagree.reg .a
  cases g with
  | add =>
    simp only [AluOp.effect, addToA, ha]
    exact (hagree.setA _).setFlags ..
  | sub =>
    simp only [AluOp.effect, subFromA, ha]
    exact (hagree.setA _).setFlags ..
  | or =>
    simp only [AluOp.effect, orIntoA, ha]
    exact (hagree.setA _).setFlags ..
  | cp =>
    simp only [AluOp.effect, compareWithA, ha]
    exact hagree.setFlags ..

/-! ### The outcomes agree -/

theorem AgreeButNAndH.retire (op : Byte) (n : Nat) : OutcomesAgree (retire op n s) (retire op n u) :=
  hagree.update
    (fun x => { x with pc := x.pc + BitVec.ofNat 16 n, cyclesReturned := some (x.cfg.cycles op) })
    fun _ _ => rfl

theorem AgreeButNAndH.jump (op : Byte) (target : Word → Word) :
    OutcomesAgree ((Form.jump target).run op s) ((Form.jump target).run op u) :=
  hagree.update
    (fun x => { x with pc := target x.pc, cyclesReturned := some (x.cfg.cycles op) }) fun _ _ => rfl

theorem AgreeButNAndH.jumpWhen (op : Byte) (n : Nat) (taken : Bool) (target : Word → Word) :
    OutcomesAgree (jumpWhen op n taken target s) (jumpWhen op n taken target u) := by
  rw [jumpWhen_eq, jumpWhen_eq]
  exact hagree.update
    (fun x => { x with
      pc := if taken then target (x.pc + BitVec.ofNat 16 n) else x.pc + BitVec.ofNat 16 n
      cyclesReturned := some (x.cfg.branchCycles op taken) })
    fun _ _ => rfl

theorem AgreeButNAndH.busRead (a : Word) : busRead u a = busRead s a := by
  obtain ⟨f, rfl⟩ := hagree.exists_f
  rfl

theorem AgreeButNAndH.withByteAtHL {k l : Byte → Host.Outcome State Fault Refusal}
    (hkl : ∀ b, OutcomesAgree (k b) (l b)) : OutcomesAgree (withByteAtHL s k) (withByteAtHL u l) := by
  unfold Machine.withByteAtHL
  rw [hagree.pair, hagree.busRead]
  cases Machine.busRead s (s.pair .hl) with
  | error f => exact rfl
  | ok b => exact hkl b

theorem AgreeButNAndH.withStoreAtHL (v : Byte) {k : State → Host.Outcome State Fault Refusal}
    (hk : ∀ {x y}, AgreeButNAndH x y → OutcomesAgree (k x) (k y)) :
    OutcomesAgree (withStoreAtHL s v k) (withStoreAtHL u v k) := by
  unfold Machine.withStoreAtHL
  rw [hagree.pair]
  cases hforbidden : forbidden (s.pair .hl) with
  | true =>
    rw [busWrite_of_forbidden v hforbidden, busWrite_of_forbidden v hforbidden]
    exact rfl
  | false =>
    rw [busWrite_of_allowed v hforbidden, busWrite_of_allowed v hforbidden]
    exact hk (hagree.update
      (fun x => { x with mem := x.mem.setByte (s.pair .hl).toNat v }) fun _ _ => rfl)

theorem AgreeButNAndH.withSource (src : Source) {k l : Byte → Host.Outcome State Fault Refusal}
    (hkl : ∀ b, OutcomesAgree (k b) (l b)) : OutcomesAgree (withSource s k src) (withSource u l src) := by
  cases src with
  | reg r =>
    simp only [Machine.withSource, hagree.reg]
    exact hkl _
  | atHL => exact hagree.withByteAtHL hkl
  | imm n => exact hkl n

/-- Non-interference for every form: what it reads is not N or H, and what it writes keeps the agreement. -/
theorem AgreeButNAndH.run (op : Byte) (form : Form) : OutcomesAgree (form.run op s) (form.run op u) := by
  have hpair := hagree.pair
  have hreg := hagree.reg
  cases form with
  | nop => exact hagree.retire op 1
  | loadReg r n => exact (hagree.setReg r n).retire op 2
  | pair length p update =>
    simp only [Form.run, hpair]
    exact (hagree.setPair p _).retire op length
  | storeAtHL n => exact hagree.withStoreAtHL n fun hxy => hxy.retire op 2
  | storeDecA =>
    have ha : u.a = s.a := hreg .a
    simp only [Form.run, hpair, ha]
    exact (hagree.setPair .hl _).withStoreAtHL s.a fun hxy => hxy.retire op 1
  | incDecReg down r =>
    simp only [Form.run, hreg]
    exact ((hagree.setReg r _).setStepFlags _ down).retire op 1
  | incDecAtHL down =>
    exact hagree.withByteAtHL fun b => hagree.withStoreAtHL _ fun hxy =>
      (hxy.setStepFlags _ down).retire op 1
  | addHL p =>
    simp only [Form.run, addPairToHL, hpair]
    exact ((((hagree.setPair .hl _).setFlag .n _).setFlag .h _).setFlag .c _).retire op 1
  | alu g src =>
    exact hagree.withSource src fun b =>
      (hagree.aluEffect g b).retire op src.length
  | accumulator newA z newC =>
    have ha : u.a = s.a := hreg .a
    simp only [Form.run, ha, hagree.flag_c]
    exact ((hagree.setA _).setFlags ..).retire op 1
  | jump target => exact hagree.jump op target
  | jumpIf cc length target =>
    simp only [Form.run, hagree.condition]
    exact hagree.jumpWhen op length _ target

end Agree

/-- Settles O8: a machine and the same with N or H written agree but for N and H, so their outcomes do. -/
theorem nAndHAreNeverRead : Obligations.NAndHAreNeverRead := by
  intro i s fl v hfl
  have houtcomes : OutcomesAgree (exec i s) (exec i (s.setFlag fl v)) := by
    rw [exec_eq_run, exec_eq_run]
    exact (agreeButNAndH_setFlag_self s v hfl).run (opcodeOf i) (formOf i)
  exact ⟨fun t => outcomesAgree_next houtcomes, fun f => outcomesAgree_fault houtcomes⟩

end Sys2Proof.Machine
end

section
/-! Which bytes of memory a completed instruction can change (20_memory.md R41, R46, R47). -/

namespace Sys2Proof.Machine

/-- The forbidden windows in numbers (R46). -/
theorem forbidden_iff (a : Word) :
    forbidden a = true ↔ (0xE000 ≤ a.toNat ∧ a.toNat ≤ 0xFDFF) ∨ (0xFEA0 ≤ a.toNat ∧ a.toNat ≤ 0xFEFF) := by
  simp [forbidden]

theorem eq_of_byteAt_setByte_ne {m : Memory} {a b : Nat} {v : Byte}
    (hne : (m.setByte a v).byteAt b ≠ m.byteAt b) : b = a := by
  by_contra hba
  exact hne (byteAt_setByte_ne m v hba)

theorem byteAt_setByte_of_forbidden (m : Memory) {a b : Word} (v : Byte) (ha : forbidden a = false)
    (hb : forbidden b = true) : (m.setByte a.toNat v).byteAt b.toNat = m.byteAt b.toNat := by
  refine byteAt_setByte_ne m v fun heq => ?_
  obtain rfl : b = a := BitVec.eq_of_toNat_eq heq
  exact Bool.noConfusion (ha.symm.trans hb)

/-- None of the listed stores reaches a forbidden window: each has passed the check of R47. -/
theorem StoresAsListed.byteAt_of_forbidden {i : Instr} {s t : State} (hstores : StoresAsListed i s t)
    {b : Word} (hb : forbidden b = true) : t.mem.byteAt b.toNat = s.mem.byteAt b.toNat := by
  rcases hstores with hmem | ⟨-, hallowed, v, hmem⟩ | ⟨-, hallowed, v, hmem⟩
  · rw [hmem]
  · rw [hmem, byteAt_setByte_of_forbidden _ v hallowed hb]
  · rw [hmem, byteAt_setByte_of_forbidden _ v hallowed hb]

/-- Settles O35: the one byte that the instruction run by the step can store has an allowed address. -/
theorem forbiddenWindowsNeverChange : Obligations.ForbiddenWindowsNeverChange := by
  intro s t a hwindow hnext
  obtain ⟨_, i, _, hexec⟩ := step_next hnext
  exact (exec_next_effects hexec).mem.byteAt_of_forbidden ((forbidden_iff a).2 hwindow)

/-- Settles O36: a byte that changed is the one stored in the place listed for the instruction. -/
theorem onlyFourInstructionsWriteMemory : Obligations.OnlyFourInstructionsWriteMemory := by
  intro i s t a hnext hchanged
  rcases (exec_next_effects hnext).mem with hmem | ⟨hi, -, v, hmem⟩ | ⟨hi, -, v, hmem⟩
  · exact absurd (by rw [hmem]) hchanged
  · rw [hmem] at hchanged
    exact .inl ⟨hi, eq_of_byteAt_setByte_ne hchanged⟩
  · rw [hmem] at hchanged
    exact .inr ⟨hi, eq_of_byteAt_setByte_ne hchanged⟩

end Sys2Proof.Machine
end

section
/-! Byte and word accesses of the bus (20_memory.md R43 to R49). -/

namespace Sys2Proof.Machine

/-- Settles O16, from what a bus read and a bus write can do. -/
theorem byteAccessRule : Obligations.ByteAccessRule := by
  intro s a
  rw [← forbidden_iff, Bool.not_eq_true]
  refine ⟨fun ha => ⟨fun v => busWrite_of_forbidden v ha, fun hc => busRead_of_faulting hc ha⟩,
    fun ha => ⟨busRead_of_readable fun _ => ha, fun v => ⟨_, busWrite_of_allowed v ha, rfl, fun hwf => ?_,
      fun b hb => byteAt_setByte_ne s.mem v hb⟩⟩,
    fun hc => busRead_of_readable fun hc' => Bool.noConfusion (hc.symm.trans hc')⟩
  rw [busRead_of_readable fun _ => ha]
  exact congrArg _ (byteAt_setByte_same hwf _ v)

/-! ### A word in memory -/

/-- The memory after the word `v` is stored at `a`: its low byte at `a`, then its high byte at `a + 1`
modulo 2^16 (R44, R45). `busWriteWord_of_allowed` ties it to the bus. -/
def Memory.setWord (m : Memory) (a v : Word) : Memory :=
  (m.setByte a.toNat (lowByte v)).setByte (a + 1).toNat (highByte v)

theorem toNat_add_one (a : Word) : (a + 1).toNat = (a.toNat + 1) % 65536 :=
  BitVec.toNat_add a 1

/-- The two bytes of a word have different addresses, at 0xFFFF too. -/
theorem toNat_ne_toNat_add_one (a : Word) : a.toNat ≠ (a + 1).toNat := by
  rw [toNat_add_one]
  omega

section SetWord
variable {m : Memory} (a v : Word)

theorem setWord_wf (hwf : m.wf = true) : (m.setWord a v).wf = true :=
  setByte_wf (setByte_wf hwf a _) (a + 1) _

theorem byteAt_setWord_low (hwf : m.wf = true) : (m.setWord a v).byteAt a.toNat = lowByte v := by
  rw [Memory.setWord, byteAt_setByte_ne _ _ (toNat_ne_toNat_add_one a), byteAt_setByte_same hwf]

theorem byteAt_setWord_high (hwf : m.wf = true) : (m.setWord a v).byteAt (a + 1).toNat = highByte v :=
  byteAt_setByte_same (setByte_wf hwf a _) _ _

theorem byteAt_setWord_ne {x : Nat} (hlow : x ≠ a.toNat) (hhigh : x ≠ (a + 1).toNat) :
    (m.setWord a v).byteAt x = m.byteAt x := by
  rw [Memory.setWord, byteAt_setByte_ne _ _ hhigh, byteAt_setByte_ne _ _ hlow]

end SetWord

/-! ### Word accesses of the bus -/

section WordAccess
variable {s : State} {a : Word}

theorem busReadWord_of_readable (hlow : Readable s a) (hhigh : Readable s (a + 1)) :
    busReadWord s a = .ok (wordOfBytes (s.mem.byteAt (a + 1).toNat) (s.mem.byteAt a.toNat)) := by
  simp only [busReadWord, busRead_of_readable hlow, busRead_of_readable hhigh]

theorem busReadWord_of_low_faulting (hlow : ReadFaults s a) :
    busReadWord s a = .error (.forbiddenMemoryAccess a .read) := by
  simp only [busReadWord, busRead_of_faulting hlow.1 hlow.2]

theorem busReadWord_of_high_faulting (hlow : Readable s a) (hhigh : ReadFaults s (a + 1)) :
    busReadWord s a = .error (.forbiddenMemoryAccess (a + 1) .read) := by
  simp only [busReadWord, busRead_of_readable hlow, busRead_of_faulting hhigh.1 hhigh.2]

variable (v : Word)

theorem busWriteWord_of_allowed (hlow : forbidden a = false) (hhigh : forbidden (a + 1) = false) :
    busWriteWord s a v = .ok { s with mem := s.mem.setWord a v } := by
  simp only [busWriteWord, busWrite_of_allowed _ hlow, busWrite_of_allowed _ hhigh, Memory.setWord]

theorem busWriteWord_of_low_forbidden (hlow : forbidden a = true) :
    busWriteWord s a v = .error (.forbiddenMemoryAccess a .write) := by
  simp only [busWriteWord, busWrite_of_forbidden _ hlow]

theorem busWriteWord_of_high_forbidden (hlow : forbidden a = false) (hhigh : forbidden (a + 1) = true) :
    busWriteWord s a v = .error (.forbiddenMemoryAccess (a + 1) .write) := by
  simp only [busWriteWord, busWrite_of_allowed _ hlow, busWrite_of_forbidden _ hhigh]

end WordAccess

/-- Settles O17: both bytes pass the checks, and the memory is that of `Memory.setWord`. -/
theorem wordAccessRule : Obligations.WordAccessRule := by
  intro s a v hwf hlow hhigh
  have hread : ∀ t : State,
      busReadWord t a = .ok (wordOfBytes (t.mem.byteAt (a + 1).toNat) (t.mem.byteAt a.toNat)) :=
    fun t => busReadWord_of_readable (fun _ => hlow) fun _ => hhigh
  rw [← toNat_add_one]
  refine ⟨⟨_, hread s, toNat_wordOfBytes _ _⟩, _, busWriteWord_of_allowed v hlow hhigh, ?_, ?_, ?_,
    fun x => byteAt_setWord_ne a v, rfl⟩
  · rw [hread, byteAt_setWord_high a v hwf, byteAt_setWord_low a v hwf, wordOfBytes_high_low]
  · rw [byteAt_setWord_low a v hwf, toNat_lowByte]
  · rw [byteAt_setWord_high a v hwf, toNat_highByte]

/-! ### The host port (R60) -/

theorem hostWriteWord_of_error {s : State} {a v : Word} {f : Fault} (hfault : busWriteWord s a v = .error f) :
    hostWriteWord s a v = (.error f, s) := by
  rw [hostWriteWord, hfault, hostWriteResult]

/-- Settles O18, in the order of the checks: the byte at a, then the byte at a + 1. -/
theorem wordAccessFaultsOnFirstForbiddenByte : Obligations.WordAccessFaultsOnFirstForbiddenByte := by
  intro s a v
  refine ⟨fun hlow => ⟨?_, fun hc => ?_⟩, fun hlow hhigh => ⟨?_, fun hc => ?_⟩⟩
  · exact hostWriteWord_of_error (busWriteWord_of_low_forbidden v hlow)
  · exact busReadWord_of_low_faulting ⟨hc, hlow⟩
  · exact hostWriteWord_of_error (busWriteWord_of_high_forbidden v hlow hhigh)
  · exact busReadWord_of_high_faulting (fun _ => hlow) ⟨hc, hhigh⟩

/-- What a bus write of either width answers: a fault, or `s` with another memory that is canonical where
the old one was. -/
def WritesMemoryOrFaults (s : State) (r : Except Fault State) : Prop :=
  (∃ f, r = .error f) ∨ ∃ m : Memory, r = .ok { s with mem := m } ∧ (s.mem.wf = true → m.wf = true)

theorem busWrite_writesMemoryOrFaults (s : State) (a : Word) (v : Byte) :
    WritesMemoryOrFaults s (busWrite s a v) := by
  rcases busWrite_cases s a v with ⟨hwrite, _⟩ | ⟨hwrite, _⟩
  · exact .inr ⟨_, hwrite, fun hwf => setByte_wf hwf a v⟩
  · exact .inl ⟨_, hwrite⟩

theorem busWriteWord_writesMemoryOrFaults (s : State) (a v : Word) :
    WritesMemoryOrFaults s (busWriteWord s a v) := by
  cases hlow : forbidden a with
  | true => exact .inl ⟨_, busWriteWord_of_low_forbidden v hlow⟩
  | false =>
    cases hhigh : forbidden (a + 1) with
    | true => exact .inl ⟨_, busWriteWord_of_high_forbidden v hlow hhigh⟩
    | false => exact .inr ⟨_, busWriteWord_of_allowed v hlow hhigh, setWord_wf a v⟩

/-- A host write of either width: the caller gets the fault and the machine is `s` itself, or `ok` and only
the memory is another. -/
theorem WritesMemoryOrFaults.hostWriteResult {s : State} {r : Except Fault State}
    (hr : WritesMemoryOrFaults s r) :
    (∃ f, r = .error f ∧ hostWriteResult s r = (.error f, s)) ∨
    (∃ t, r = .ok t ∧ hostWriteResult s r = (.ok (), t) ∧ t = { s with mem := t.mem } ∧
      (s.mem.wf = true → t.mem.wf = true)) := by
  rcases hr with ⟨f, rfl⟩ | ⟨m, rfl, hwf⟩
  · exact .inl ⟨f, rfl, rfl⟩
  · exact .inr ⟨_, rfl, rfl, rfl, hwf⟩

/-- Settles O19: the host's reads are the bus reads by definition, and its writes of both widths pass on a
bus write's answer. -/
theorem hostAccessNeverStopsTheCore : Obligations.HostAccessNeverStopsTheCore := by
  intro s a
  exact ⟨rfl, rfl, fun v => (busWrite_writesMemoryOrFaults s a v).hostWriteResult,
    fun v => (busWriteWord_writesMemoryOrFaults s a v).hostWriteResult⟩

end Sys2Proof.Machine
end

section
/-! The launch (20_memory.md R55, 70_reset_and_hazards.md R172, R174) and the fetch of an opcode just stored
(20_memory.md R59, 70_reset_and_hazards.md R186). -/

namespace Sys2Proof.Machine

theorem launch_of_type_zero (cfg : Config) {image : List Byte} (hfit : image.length ≤ 0x10000)
    (htype : image.getD 0x0147 0x00 = 0x00) :
    launch cfg image = .ok { State.reset with mem := imageMemory image, cfg := cfg } :=
  if_pos ((byteAt_imageMemory hfit _).trans htype)

/-- Settles O2: an image that passes the loader's check is the memory of the power-on state. -/
theorem launchLoadsTheImage : Obligations.LaunchLoadsTheImage := by
  refine ⟨launch_of_type_zero _ (Nat.zero_le _) rfl, byteAt_nil, fun cfg image hfit htype => ?_⟩
  exact ⟨_, launch_of_type_zero cfg hfit htype, imageMemory_wf image, byteAt_imageMemory hfit,
    rfl, rfl, rfl, rfl, rfl, rfl, rfl, rfl, rfl, rfl, rfl, rfl⟩

/-! ### Instructions of one byte -/

/-- An instruction without operand bytes is its opcode's row of the map (30_encoding.md R68). -/
theorem opcodeRow_of_no_operands {i : Instr} (hone : operandsOf i = []) :
    opcodeRow (opcodeOf i) = some (.f1 i) := by
  cases i <;> simp [operandsOf, wordOperand] at hone <;> rfl

theorem step_of_no_operands {s : State} {i : Instr} (hone : operandsOf i = []) (hs : s.status = .running)
    (hr : Readable s s.pc) (hbyte : s.mem.byteAt s.pc.toNat = opcodeOf i) (hin : i.inTable s.cfg = true) :
    step s = exec i s := by
  have hrow := opcodeRow_of_no_operands hone
  have hhandler : lookupHandler s.cfg (opcodeOf i) = some 0 :=
    (if_pos hin).trans (congrArg (Option.map OpcodeRow.operandCount) hrow)
  have hdecode : decode [opcodeOf i] = .ok (i, []) := by
    simp only [decode, hrow, decodeOperands]
  have hfetch : fetchInstr s = .ok i := by
    simp only [fetchInstr, fetch8_of_readable hr, hbyte, hhandler, fetchOperands, hdecode]
  rw [step_of_running hs, hfetch]

/-- LD (HL),d8 where its write is allowed (41_loads.md R93). -/
theorem exec_ldAtHLd8_of_allowed {s : State} (n : Byte) (ha : forbidden (s.pair .hl) = false) :
    exec (.ldAtHLd8 n) s = retire 0x36 2 { s with mem := s.mem.setByte (s.pair .hl).toNat n } := by
  rcases withStoreAtHL_cases s n (retire 0x36 2) with ⟨hstore, _⟩ | ⟨_, hforbidden⟩
  · exact hstore
  · exact Bool.noConfusion (ha.symm.trans hforbidden)

/-- Settles O38: the stored opcode is the byte at the new pc, and its address, which the store has passed
the check with, can be read. -/
theorem storedOpcodeIsFetchedNext : Obligations.StoredOpcodeIsFetchedNext := by
  intro s i hwf hrunning hhl hallowed hencode hin
  have hone : operandsOf i = [] := (List.cons.inj hencode).2
  have hexec := exec_ldAtHLd8_of_allowed (opcodeOf i) (hhl ▸ hallowed)
  rw [hhl, retire_eq] at hexec
  exact ⟨_, hexec, rfl,
    step_of_no_operands hone hrunning (fun _ => hallowed) (byteAt_setByte_same hwf _ _) hin⟩

end Sys2Proof.Machine
end

section
/-! The decoder against the encoder, in both directions (30_encoding.md R61, R65 to R68, R72): an
instruction's opcode has a row of the map that makes the instruction, and that row fits the opcode. -/

namespace Sys2Proof

/-! ### The row of an instruction -/

/-- The row makes the instruction from some operand. -/
inductive OpcodeRow.Makes : OpcodeRow → Instr → Prop
  | f1 (i : Instr) : Makes (.f1 i) i
  | f2 (make : Byte → Instr) (n : Byte) : Makes (.f2 make) (make n)
  | f3 (make : Word → Instr) (nn : Word) : Makes (.f3 make) (make nn)

/-- Every instruction is made by its opcode's row (R68, R72). -/
theorem opcodeRow_makes (i : Instr) : ∃ row, opcodeRow (opcodeOf i) = some row ∧ row.Makes i := by
  cases i
  all_goals
    simp only [opcodeOf]
    refine ⟨_, rfl, ?_⟩
    constructor

theorem operandCount_opcodeOf (i : Instr) : operandCount (opcodeOf i) = some (operandsOf i).length := by
  obtain ⟨row, hrow, hmakes⟩ := opcodeRow_makes i
  have hfits := opcodeRow_fits hrow
  rw [operandCount, hrow, Option.map_some]
  cases hmakes with
  | f1 i => rw [(List.cons.inj hfits).2]; rfl
  | f2 make n => rw [(List.cons.inj (hfits n)).2]; rfl
  | f3 make nn => rw [(List.cons.inj (hfits nn)).2]; rfl

theorem opcodeOf_mem_specifiedSet (i : Instr) : opcodeOf i ∈ specifiedSet := by
  rw [← List.contains_iff_mem, Machine.contains_specifiedSet, operandCount_opcodeOf]
  rfl

/-! ### The operands of a row -/

theorem decodeOperands_operandsOf {op : Byte} {row : OpcodeRow} {i : Instr} (hfits : row.Fits op)
    (hmakes : row.Makes i) (rest : List Byte) :
    decodeOperands op row (operandsOf i ++ rest) = .ok (i, rest) := by
  cases hmakes with
  | f1 i => rw [(List.cons.inj hfits).2]; rfl
  | f2 make n => rw [(List.cons.inj (hfits n)).2]; rfl
  | f3 make nn =>
    rw [(List.cons.inj (hfits nn)).2]
    simp [wordOperand, decodeOperands]

theorem encode_of_decodeOperands {op : Byte} {row : OpcodeRow} {bs rest : List Byte} {i : Instr}
    (hfits : row.Fits op) (hdecode : decodeOperands op row bs = .ok (i, rest)) :
    op :: bs = encode i ++ rest := by
  match row, bs with
  | .f1 j, bs =>
    cases hdecode
    rw [show encode i = [op] from hfits]
    rfl
  | .f2 make, n :: bs =>
    cases hdecode
    rw [hfits n]
    rfl
  | .f3 make, lo :: hi :: bs =>
    cases hdecode
    simp [hfits (wordOfBytes hi lo), wordOperand]
  | .f2 _, [] | .f3 _, [] | .f3 _, [_] => cases hdecode

/-! ### The decoder -/

theorem decode_of_opcodeRow {op : Byte} {row : OpcodeRow} (hrow : opcodeRow op = some row) (bs : List Byte) :
    decode (op :: bs) = decodeOperands op row bs := by
  simp only [decode, hrow]

theorem decode_of_outside {op : Byte} (hout : op ∉ specifiedSet) (bs : List Byte) :
    decode (op :: bs) = .error (.outsideSet op) := by
  have hcount : operandCount op = none := Machine.operandCount_of_outside (by simpa using hout)
  have hrow : opcodeRow op = none := Option.map_eq_none_iff.1 hcount
  simp only [decode, hrow]

/-- Settles O20: the row of the instruction's opcode reads back the operand bytes that the encoder wrote. -/
theorem decodeOfEncodeIsTheInstruction : Obligations.DecodeOfEncodeIsTheInstruction := by
  intro i rest
  obtain ⟨row, hrow, hmakes⟩ := opcodeRow_makes i
  calc decode (encode i ++ rest)
      = decodeOperands (opcodeOf i) row (operandsOf i ++ rest) := decode_of_opcodeRow hrow _
    _ = .ok (i, rest) := decodeOperands_operandsOf (opcodeRow_fits hrow) hmakes rest

/-- Settles O21: the row that the decoder used fits the opcode it was found under. -/
theorem encodeOfDecodeIsTheBytes : Obligations.EncodeOfDecodeIsTheBytes := by
  intro bs rest i hdecode
  match bs with
  | [] => cases hdecode
  | op :: bs =>
    cases hrow : opcodeRow op with
    | none =>
      simp only [decode, hrow] at hdecode
      cases hdecode
    | some row =>
      exact encode_of_decodeOperands (opcodeRow_fits hrow) ((decode_of_opcodeRow hrow bs).symm.trans hdecode)

/-- An opcode of S followed by two bytes is an instruction of that opcode, with those of the two bytes left
that are not its operands. -/
theorem decode_of_mem_specifiedSet {op : Byte} (hop : op ∈ specifiedSet) (x y : Byte) :
    ∃ i rest, decode [op, x, y] = .ok (i, rest) ∧ opcodeOf i = op := by
  have hcount : (operandCount op).isSome = true := by
    rw [← Machine.contains_specifiedSet]
    exact List.contains_iff_mem.2 hop
  obtain ⟨n, hn⟩ := Option.isSome_iff_exists.1 hcount
  have hle := Machine.operandCount_le hn
  obtain ⟨i, hdecode, hi⟩ := Machine.decode_of_operandCount (bs := [x, y].take n) hn
    (List.length_take_of_le hle)
  have hbytes : op :: [x, y].take n = encode i :=
    (encodeOfDecodeIsTheBytes _ _ _ hdecode).trans (List.append_nil _)
  refine ⟨i, [x, y].drop n, ?_, hi⟩
  rw [← decodeOfEncodeIsTheInstruction i, ← hbytes, List.cons_append, List.take_append_drop]

theorem encode_length (i : Instr) : 1 ≤ (encode i).length ∧ (encode i).length ≤ 3 := by
  have hle := Machine.operandCount_le (operandCount_opcodeOf i)
  rw [encode, List.length_cons]
  omega

/-- Settles O22: outside S the map has no row, and inside it the row takes at most the two bytes that follow. -/
theorem decoderKnowsExactlyTheSpecifiedSet : Obligations.DecoderKnowsExactlyTheSpecifiedSet := by
  refine ⟨rfl, by decide, fun op rest hout => decode_of_outside hout rest, fun op x y hop => ?_⟩
  obtain ⟨i, rest, hdecode, hi⟩ := decode_of_mem_specifiedSet hop x y
  exact ⟨i, rest, hdecode, hi, encode_length i⟩

theorem decode_encode (i : Instr) : decode (encode i) = .ok (i, []) := by
  simpa using decodeOfEncodeIsTheInstruction i []

/-- Settles O23: each word is, by computation, the encoding of the instruction named for it. -/
theorem sampleWordsDecode : Obligations.SampleWordsDecode :=
  ⟨decode_encode .nop, decode_encode (.ldBCd16 0x2345), decode_encode (.ldCd8 0x10),
    decode_encode (.ldAtHLd8 0x5A), decode_encode .ldAtHLDecA, decode_encode .incE, decode_encode .decAtHL,
    decode_encode .addAL, decode_encode .subAtHL, decode_encode (.ord8 0x01), decode_encode .cpA,
    decode_encode .xorA, decode_encode .decSP, decode_encode .addHLHL, decode_encode .rra,
    decode_encode (.jrC 0xFC), decode_encode (.jpNC 0x1234)⟩

end Sys2Proof
end

section
/-! The step on the bytes of an instruction (30_encoding.md R70) and the count it returns (R73,
70_reset_and_hazards.md R180). -/

namespace Sys2Proof.Machine

/-! ### The fetch -/

/-- The operand bytes that stand in memory from pc on and can be read are what the fetch answers. -/
theorem fetchOperands_of_holdsAt {s : State} {bs : List Byte} (hheld : HoldsAt s s.pc bs)
    (hr : ReadableFrom s s.pc bs.length) : fetchOperands bs.length s = .ok bs := by
  rw [fetchOperands_of_readable _ _ hr]
  congr 1
  refine List.ext_getElem (by simp) fun k _ hk => ?_
  have hbyte := hheld k hk
  rw [List.getElem?_eq_getElem hk, Option.some_inj] at hbyte
  rw [List.getElem_map, List.getElem_range, hbyte]

theorem lookupHandler_of_inTable {cfg : Config} {i : Instr} (hin : i.inTable cfg = true) :
    lookupHandler cfg (opcodeOf i) = some (operandsOf i).length :=
  (if_pos hin).trans (operandCount_opcodeOf i)

theorem fetchInstr_of_readyToRun {i : Instr} {s : State} (hready : ReadyToRun i s) : fetchInstr s = .ok i := by
  obtain ⟨-, hheld, hreadable, hin⟩ := hready
  have hlen : (encode i).length = (operandsOf i).length + 1 := rfl
  have hpc : Readable s s.pc := by simpa using hreadable 0 (by omega)
  have hbyte : s.mem.byteAt s.pc.toNat = opcodeOf i := by
    simpa [encode] using (hheld 0 (by omega)).symm
  have hoperands : fetchOperands (operandsOf i).length (s.advance 1) = .ok (operandsOf i) := by
    refine fetchOperands_of_holdsAt (fun k hk => ?_) fun k hk => ?_
    · rw [pc_advance_one]
      exact hheld (k + 1) (by omega)
    · rw [pc_advance_one]
      exact hreadable (k + 1) (by omega)
  have hdecode : decode (opcodeOf i :: operandsOf i) = .ok (i, []) := decode_encode i
  simp only [fetchInstr, fetch8_of_readable hpc, hbyte, lookupHandler_of_inTable hin, hoperands, hdecode]

/-- Settles O24: the fetch reads the encoding, which the decoder reads back. -/
theorem stepRunsTheDecodedInstruction : Obligations.StepRunsTheDecodedInstruction := by
  intro i s hready
  have hfetch := fetchInstr_of_readyToRun hready
  obtain ⟨hrunning, -⟩ := hready
  refine ⟨hfetch, ?_⟩
  rw [step_of_running hrunning, hfetch]

/-! ### The count -/

theorem fetchInstr_ok_opcodeOf {s : State} {i : Instr} (hfetch : fetchInstr s = .ok i) :
    opcodeOf i = s.mem.byteAt s.pc.toNat := by
  rcases fetchInstr_cases s with ⟨j, hj, hop, -⟩ | ⟨herror, -⟩ | ⟨a, herror, -⟩
  · cases hj.symm.trans hfetch
    exact hop
  · cases herror.symm.trans hfetch
  · cases herror.symm.trans hfetch

theorem exists_legal_cost {cfg : Config} {op : Byte} (hlegal : cfg.legal = true) (hop : op ∈ specifiedSet) :
    ∃ cost, lookupCost op cfg.cycleCost = some cost ∧ cost.legal = true := by
  simp only [Config.legal, Bool.and_eq_true] at hlegal
  obtain ⟨⟨-, hcosts⟩, -⟩ := hlegal
  have hentry := List.all_eq_true.1 hcosts op hop
  cases hcost : lookupCost op cfg.cycleCost with
  | none => simp [hcost] at hentry
  | some cost =>
    simp only [hcost, Bool.and_eq_true] at hentry
    exact ⟨cost, rfl, hentry.1⟩

theorem branchCycles_pos {cfg : Config} {op : Byte} (hlegal : cfg.legal = true) (hop : op ∈ specifiedSet)
    (taken : Bool) : 1 ≤ cfg.branchCycles op taken := by
  obtain ⟨cost, hcost, hcostLegal⟩ := exists_legal_cost hlegal hop
  cases cost with
  | fixed n =>
    simp only [Config.branchCycles, hcost]
    simpa [CycleCost.legal] using hcostLegal
  | branch notTaken whenTaken =>
    simp only [CycleCost.legal, Bool.and_eq_true, decide_eq_true_eq] at hcostLegal
    obtain ⟨hnotTaken, hle⟩ := hcostLegal
    simp only [Config.branchCycles, hcost]
    cases taken with
    | false => exact hnotTaken
    | true => exact hnotTaken.trans hle

/-- Settles O32, from the cost listed among the effects of the instruction that the step fetched. -/
theorem stepReturnsItsCycleCount : Obligations.StepReturnsItsCycleCount := by
  refine ⟨fun s t hlegal hnext => ?_, fun s f hfault => ⟨stepReturn_of_fault hfault, ?_⟩⟩
  · obtain ⟨-, i, hfetch, hexec⟩ := step_next hnext
    obtain ⟨taken, hcycles, htaken⟩ := (exec_next_effects hexec).cost
    have hpos := branchCycles_pos hlegal (opcodeOf_mem_specifiedSet i) taken
    rw [← fetchInstr_ok_opcodeOf hfetch]
    exact ⟨taken, _, rfl, hpos, htaken, hcycles, stepReturn_of_next hnext hcycles⟩
  · rw [afterStep_of_fault hfault, takeFault_cyclesReturned]

end Sys2Proof.Machine
end

section
/-! Non-interference of the table and the costs (30_encoding.md R71, 70_reset_and_hazards.md R180): a machine
with other parameters IMPLEMENTED and CYCLE_COST has the same outcome but for those parameters and the count. -/

namespace Sys2Proof.Machine

/-- The machine with another IMPLEMENTED and another CYCLE_COST. -/
def State.withTables (s : State) (table : List Byte) (costs : List (Byte × CycleCost)) : State :=
  { s with cfg := { s.cfg with implemented := table, cycleCost := costs } }

/-- The count of an opcode under a CYCLE_COST, the one parameter that CYCLES(op, taken) reads (R12). -/
def countUnder (costs : List (Byte × CycleCost)) (op : Byte) (taken : Bool) : Nat :=
  { Config.reference with cycleCost := costs }.branchCycles op taken

theorem countUnder_cycleCost (cfg : Config) (op : Byte) (taken : Bool) :
    countUnder cfg.cycleCost op taken = cfg.branchCycles op taken := rfl

/-- The outcome under another IMPLEMENTED and CYCLE_COST, where a completed instruction returns `count`. -/
def underTables (table : List Byte) (costs : List (Byte × CycleCost)) (count : Nat) :
    Host.Outcome State Fault Refusal → Host.Outcome State Fault Refusal
  | .next t => .next { t.withTables table costs with cyclesReturned := some count }
  | .fault f => .fault f
  | .refused r => .refused r

/-- Whether the form's jump is taken on a condition, which chooses its count (R182). -/
def Form.taken (s : State) : Form → Bool
  | .jumpIf cc _ _ => s.condition cc
  | _ => false

section Tables
variable (s : State) (table : List Byte) (costs : List (Byte × CycleCost))

/-! ### What the meanings read and write is the same -/

@[simp] theorem withTables_reg (r : Reg8) : (s.withTables table costs).reg r = s.reg r := by cases r <;> rfl

@[simp] theorem withTables_pair (p : Reg16) : (s.withTables table costs).pair p = s.pair p := by
  cases p <;> rfl

@[simp] theorem withTables_condition (cc : Cond) :
    (s.withTables table costs).condition cc = s.condition cc := by
  cases cc <;> rfl

@[simp] theorem withTables_setReg (r : Reg8) (v : Byte) :
    (s.withTables table costs).setReg r v = (s.setReg r v).withTables table costs := by
  cases r <;> rfl

@[simp] theorem withTables_setPair (p : Reg16) (v : Word) :
    (s.withTables table costs).setPair p v = (s.setPair p v).withTables table costs := by
  cases p <;> rfl

theorem withTables_aluEffect (g : AluOp) (b : Byte) :
    g.effect b (s.withTables table costs) = (g.effect b s).withTables table costs := by
  cases g <;> rfl

/-! ### The outcomes are the same but for the parameters and the count -/

theorem retire_withTables (op : Byte) (n : Nat) :
    retire op n (s.withTables table costs) = underTables table costs (countUnder costs op false) (retire op n s) :=
  rfl

variable {s table costs}

theorem withByteAtHL_withTables {count : Nat} {k l : Byte → Host.Outcome State Fault Refusal}
    (hkl : ∀ b, l b = underTables table costs count (k b)) :
    withByteAtHL (s.withTables table costs) l = underTables table costs count (withByteAtHL s k) := by
  have hread : busRead (s.withTables table costs) (s.pair .hl) = busRead s (s.pair .hl) := rfl
  unfold withByteAtHL
  rw [withTables_pair, hread]
  cases busRead s (s.pair .hl) with
  | error f => rfl
  | ok b => exact hkl b

theorem withStoreAtHL_withTables {count : Nat} (v : Byte) {k : State → Host.Outcome State Fault Refusal}
    (hk : ∀ x, k (x.withTables table costs) = underTables table costs count (k x)) :
    withStoreAtHL (s.withTables table costs) v k = underTables table costs count (withStoreAtHL s v k) := by
  unfold withStoreAtHL
  rw [withTables_pair]
  cases hforbidden : forbidden (s.pair .hl) with
  | true =>
    rw [busWrite_of_forbidden v hforbidden, busWrite_of_forbidden v hforbidden]
    rfl
  | false =>
    rw [busWrite_of_allowed v hforbidden, busWrite_of_allowed v hforbidden]
    exact hk { s with mem := s.mem.setByte (s.pair .hl).toNat v }

theorem withSource_withTables {count : Nat} (src : Source) {k l : Byte → Host.Outcome State Fault Refusal}
    (hkl : ∀ b, l b = underTables table costs count (k b)) :
    withSource (s.withTables table costs) l src = underTables table costs count (withSource s k src) := by
  cases src with
  | reg r =>
    simp only [withSource, withTables_reg]
    exact hkl _
  | atHL => exact withByteAtHL_withTables hkl
  | imm n => exact hkl n

/-- A form reads neither table; only its count is looked up in CYCLE_COST. -/
theorem Form.run_withTables (op : Byte) (form : Form) :
    form.run op (s.withTables table costs) =
      underTables table costs (countUnder costs op (form.taken s)) (form.run op s) := by
  cases form with
  | nop => exact retire_withTables s table costs op 1
  | loadReg r n =>
    rw [Form.run, withTables_setReg]
    exact retire_withTables _ table costs op 2
  | pair length p update =>
    rw [Form.run, withTables_pair, withTables_setPair]
    exact retire_withTables _ table costs op length
  | storeAtHL n => exact withStoreAtHL_withTables n fun x => retire_withTables x table costs op 2
  | storeDecA =>
    rw [Form.run, withTables_pair, withTables_setPair]
    exact withStoreAtHL_withTables s.a fun x => retire_withTables x table costs op 1
  | incDecReg down r =>
    rw [Form.run, withTables_reg, withTables_setReg]
    exact retire_withTables (State.setStepFlags _ _ down) table costs op 1
  | incDecAtHL down =>
    exact withByteAtHL_withTables fun b => withStoreAtHL_withTables _ fun x =>
      retire_withTables (x.setStepFlags _ down) table costs op 1
  | addHL p =>
    rw [Form.run, addPairToHL, withTables_pair]
    rfl
  | alu g src =>
    rw [Form.run, Form.run]
    refine withSource_withTables src fun b => ?_
    rw [withTables_aluEffect]
    exact retire_withTables _ table costs op src.length
  | accumulator newA z newC => rfl
  | jump target => rfl
  | jumpIf cc length target =>
    rw [Form.run, withTables_condition, jumpWhen_eq, Form.run, jumpWhen_eq]
    rfl

theorem exec_withTables (i : Instr) :
    exec i (s.withTables table costs) =
      underTables table costs (countUnder costs (opcodeOf i) ((formOf i).taken s)) (exec i s) := by
  rw [exec_eq_run, exec_eq_run, Form.run_withTables]

end Tables

/-- The count of a completed instruction: `exec_withTables` under the machine's own parameters. -/
theorem exec_next_cyclesReturned {i : Instr} {s t : State} (hnext : exec i s = .next t) :
    t.cyclesReturned = some (s.cfg.branchCycles (opcodeOf i) ((formOf i).taken s)) := by
  have hown := exec_withTables (s := s) (table := s.cfg.implemented) (costs := s.cfg.cycleCost) i
  rw [hnext, countUnder_cycleCost] at hown
  exact congrArg State.cyclesReturned (Host.Outcome.next.inj (hnext.symm.trans hown))

/-- Settles O37: the count under the same CYCLE_COST is the one that the machine's own parameters give. -/
theorem tableAndCostsChangeNoEffect : Obligations.TableAndCostsChangeNoEffect := by
  intro i s table costs
  refine ⟨fun t hnext => ⟨countUnder costs (opcodeOf i) ((formOf i).taken s), ?_⟩, fun t hnext => ?_,
    fun f hfault => ?_⟩
  · exact (exec_withTables i).trans (congrArg (underTables table costs _) hnext)
  · have hcfg := (exec_next_effects hnext).cfg
    have hcycles := exec_next_cyclesReturned hnext
    refine (exec_withTables (costs := s.cfg.cycleCost) i).trans ?_
    rw [hnext, underTables, countUnder_cycleCost, ← hcycles, ← hcfg]
    rfl
  · exact (exec_withTables i).trans (congrArg (underTables table costs _) hfault)

end Sys2Proof.Machine
end

section
/-! The ALU's pure functions in numbers (40_alu.md R81 to R89). -/

namespace Sys2Proof.Machine

/-! ### add8 and sub8 -/

theorem add8_result_toNat (a b : Byte) : (add8 a b).result.toNat = (a.toNat + b.toNat) % 256 :=
  BitVec.toNat_add a b

@[simp] theorem add8_halfCarry (a b : Byte) :
    (add8 a b).halfCarry = decide (a.toNat % 16 + b.toNat % 16 > 15) := by
  rw [add8, lowNibble_eq_mod, lowNibble_eq_mod]

/-- The difference is taken in the integers, where it can be negative (R82). -/
theorem sub8_result_toNat (a b : Byte) :
    ((sub8 a b).result.toNat : Int) = ((a.toNat : Int) - b.toNat) % 256 := by
  have hb := b.isLt
  rw [sub8, BitVec.toNat_sub]
  omega

@[simp] theorem sub8_halfCarry (a b : Byte) :
    (sub8 a b).halfCarry = decide (a.toNat % 16 < b.toNat % 16) := by
  rw [sub8, lowNibble_eq_mod, lowNibble_eq_mod]

@[simp] theorem sub8_result_eq_zero (a b : Byte) : (sub8 a b).result = 0 ↔ a = b :=
  sub_eq_zero

/-- Settles O10: the carry is R81's own comparison, so only the sum and the masks need an argument. -/
theorem addByteRule : Obligations.AddByteRule :=
  fun a b => ⟨add8_result_toNat a b, add8_halfCarry a b, rfl⟩

/-- Settles O11: the carry is R82's own comparison, so only the difference and the masks need an argument. -/
theorem subtractByteRule : Obligations.SubtractByteRule :=
  fun a b => ⟨sub8_result_toNat a b, sub8_halfCarry a b, rfl⟩

/-! ### inc8 and dec8 -/

@[simp] theorem inc8_zero (n : Byte) : (inc8 n).zero = decide (n = 0xFF) :=
  decide_eq_decide.2 (add_eq_zero_iff_eq_neg (b := (1 : Byte)))

@[simp] theorem inc8_halfCarry (n : Byte) : (inc8 n).halfCarry = decide (n.toNat % 16 = 15) := by
  have hone : (1 : Byte).toNat % 16 = 1 := rfl
  rw [inc8, add8_halfCarry, hone, decide_eq_decide]
  omega

@[simp] theorem dec8_zero (n : Byte) : (dec8 n).zero = decide (n = 0x01) :=
  decide_eq_decide.2 (sub8_result_eq_zero n 1)

@[simp] theorem dec8_halfCarry (n : Byte) : (dec8 n).halfCarry = decide (n.toNat % 16 = 0) :=
  (sub8_halfCarry n 1).trans (decide_eq_decide.2 Nat.lt_one_iff)

/-- Settles O12: the zero and half carry of R83 and R84 as conditions on the operand. -/
theorem incrementAndDecrementByteRule : Obligations.IncrementAndDecrementByteRule := by
  intro n
  have hinc : (inc8 n).zero = decide (n.toNat = 255) :=
    (inc8_zero n).trans (decide_eq_decide.2 BitVec.toNat_eq)
  have hdec : (dec8 n).zero = decide (n.toNat = 1) :=
    (dec8_zero n).trans (decide_eq_decide.2 BitVec.toNat_eq)
  exact ⟨rfl, hinc, rfl, inc8_halfCarry n, rfl, hdec, rfl, dec8_halfCarry n⟩

/-! ### or8 and cp8 -/

theorem or8_result_getLsbD (a b : Byte) (j : Nat) :
    (or8 a b).result.getLsbD j = (a.getLsbD j || b.getLsbD j) :=
  BitVec.getLsbD_or

@[simp] theorem or8_result_eq_zero (a b : Byte) : (or8 a b).result = 0 ↔ a = 0 ∧ b = 0 :=
  BitVec.or_eq_zero_iff

theorem cp8_eq (a b : Byte) : cp8 a b = (decide (a = b), (sub8 a b).halfCarry, (sub8 a b).carry) :=
  congrArg (·, (sub8 a b).halfCarry, (sub8 a b).carry) (decide_eq_decide.2 (sub8_result_eq_zero a b))

/-- Settles O13: Z is read through `setAluFlags_flag`. -/
theorem orAndCompareByteRule : Obligations.OrAndCompareByteRule := by
  intro a b
  have hz (s : State) (n : Bool) :
      (s.setAluFlags (or8 a b) n).flag .z = decide (a = 0 ∧ b = 0) :=
    (setAluFlags_flag s (or8 a b) n .z).trans (decide_eq_decide.2 (or8_result_eq_zero a b))
  exact ⟨fun j _ => or8_result_getLsbD a b j, rfl, rfl, hz, cp8_eq a b⟩

/-! ### add16_to_pair -/

theorem toNat_low12 (w : Word) : (w &&& 0x0FFF).toNat = w.toNat % 4096 :=
  (BitVec.toNat_and w 0x0FFF).trans (Nat.and_two_pow_sub_one_eq_mod _ 12)

theorem add16ToPair_result_toNat (x n : Word) :
    (add16ToPair x n).result.toNat = (x.toNat + n.toNat) % 65536 :=
  BitVec.toNat_add x n

@[simp] theorem add16ToPair_halfCarry (x n : Word) :
    (add16ToPair x n).halfCarry = decide (x.toNat % 4096 + n.toNat % 4096 > 4095) := by
  rw [add16ToPair, toNat_low12, toNat_low12]

/-- Settles O14: the mask 0xFFF of C1 is the remainder by 4096. -/
theorem addWordRule : Obligations.AddWordRule :=
  fun x n => ⟨add16ToPair_result_toNat x n, add16ToPair_halfCarry x n, rfl⟩

/-! ### add_signed -/

/-- Sign extension keeps the offset's signed value, so only the sum modulo 2^16 is taken. -/
theorem addSigned_toNat (base : Word) (e : Byte) :
    ((addSigned base e).toNat : Int) = ((base.toNat : Int) + e.toInt) % 65536 := by
  have hoffset : ((e.signExtend 16).toNat : Int) = e.toInt % 65536 := by
    rw [BitVec.signExtend, BitVec.toNat_ofInt]
    omega
  rw [addSigned, BitVec.toNat_add]
  omega

/-- Settles O15: the bounds are those of every byte read in two's complement. -/
theorem addSignedRule : Obligations.AddSignedRule :=
  fun base e => ⟨addSigned_toNat base e, e.le_toInt, Int.le_of_lt_add_one e.toInt_lt⟩

end Sys2Proof.Machine
end

section
/-! No-operation and loads (41_loads.md R90 to R94): what each instruction retires with, where its store or
its operand fetch faults, and the step on its opcode. -/

namespace Sys2Proof.Machine

/-! ### The operand fetch (20_memory.md R48, 60_exceptions.md R152, R156) -/

/-- The operand bytes an opcode takes are read in address order, so the first that cannot be read ends the
step. -/
theorem operandFetchFaults {op : Byte} {n : Nat} (hcount : operandCount op = some n) :
    OperandFetchFaults op n := by
  rintro s k ⟨hrunning, hpc, hbyte, hin⟩ hk hbefore hfault
  have hhandler : lookupHandler s.cfg op = some n := (if_pos hin).trans hcount
  have hoperands : fetchOperands n (s.advance 1) =
      .error (.forbiddenMemoryAccess (s.pc + 1 + BitVec.ofNat 16 k) .read) :=
    fetchOperands_of_faulting k n (s.advance 1) hk hbefore hfault
  have hfetch : fetchInstr s = .error (.forbiddenMemoryAccess (s.pc + 1 + BitVec.ofNat 16 k) .read) := by
    simp only [fetchInstr, fetch8_of_readable hpc, hbyte, hhandler, hoperands]
  rw [step_of_running hrunning, hfetch]

/-- The step on the opcode of an instruction without operand bytes. -/
theorem step_of_opcodeFound {s : State} {i : Instr} (hone : operandsOf i = [])
    (hfound : OpcodeFound (opcodeOf i) s) : step s = exec i s := by
  obtain ⟨hrunning, hpc, hbyte, hin⟩ := hfound
  exact step_of_no_operands hone hrunning hpc hbyte hin

/-! ### The end of an instruction -/

/-- `t` is `x` at the end of an instruction that began in `s`: pc and the returned count are the
instruction's, and the rest is as in `x`. -/
structure RetiredFrom (op : Byte) (length : Nat) (s x t : State) : Prop where
  reg : ∀ r, t.reg r = x.reg r
  pair : ∀ p, t.pair p = x.pair p
  f : t.f = x.f
  sp : t.sp = x.sp
  mem : t.mem = x.mem
  retires : Retires op length s t

theorem retire_retiredFrom {s x : State} (op : Byte) (length : Nat) (hpc : x.pc = s.pc) (hrun : KeepsRun s x) :
    ∃ t, retire op length x = .next t ∧ RetiredFrom op length s x t := by
  obtain ⟨t, hnext, hreg, hpair, -, hf, -, hsp, hmem, htpc, hcycles, hstatus, hcfg⟩ := retire_spec op length x
  obtain ⟨hxstatus, hxcfg⟩ := hrun
  rw [hpc] at htpc
  rw [hxcfg] at hcycles
  exact ⟨t, hnext, hreg, hpair, hf, hsp, hmem, htpc, hcycles, hstatus.trans hxstatus, hcfg.trans hxcfg⟩

/-! ### NOP (R90) -/

theorem exec_nop_keepsRegsAndMemory (s : State) :
    ∃ t, exec .nop s = .next t ∧ KeepsRegsAndMemory s t ∧ Retires 0x00 1 s t := by
  obtain ⟨t, hnext, ht⟩ := retire_retiredFrom (s := s) 0x00 1 rfl ⟨rfl, rfl⟩
  exact ⟨t, hnext, ⟨ht.f, fun r _ => ht.reg r, ht.sp, fun a => by rw [ht.mem]⟩, ht.retires⟩

/-- Settles O39: a step on the byte 0x00 runs NOP, which retires the state as it is. -/
theorem nopOnlyMovesThePc : Obligations.NopOnlyMovesThePc := by
  refine ⟨rfl, exec_nop_keepsRegsAndMemory, fun s hfound => ?_⟩
  rw [step_of_opcodeFound (i := .nop) rfl hfound]
  exact exec_nop_keepsRegsAndMemory s

/-! ### LD rr,d16 (R91) -/

/-- `make` is LD `p`,d16 with opcode `op`, and a write to `p` changes no 8-bit register outside `written`. -/
structure LoadsPair (make : Word → Instr) (op : Byte) (p : Reg16) (written : List Reg8) : Prop where
  count : operandCount op = some 2
  encode_eq : ∀ nn, encode (make nn) = op :: wordOperand nn
  exec_eq : ∀ nn s, exec (make nn) s = retire op 3 (s.setPair p nn)
  keepsRegs : ∀ (s : State) nn, KeepsRegsBut written s (s.setPair p nn)

theorem loadsPair_of_listed {make : Word → Instr} {op : Byte} {p : Reg16} {written : List Reg8}
    (hlisted : (make, op, p, written) ∈
      [(Instr.ldBCd16, (0x01 : Byte), Reg16.bc, [Reg8.b, Reg8.c]), (.ldDEd16, 0x11, .de, [.d, .e]),
       (.ldHLd16, 0x21, .hl, [.h, .l]), (.ldSPd16, 0x31, .sp, [])]) : LoadsPair make op p written := by
  simp only [List.mem_cons, Prod.mk.injEq, List.not_mem_nil, or_false] at hlisted
  rcases hlisted with ⟨rfl, rfl, rfl, rfl⟩ | ⟨rfl, rfl, rfl, rfl⟩ | ⟨rfl, rfl, rfl, rfl⟩ | ⟨rfl, rfl, rfl, rfl⟩ <;>
    refine ⟨rfl, fun _ => rfl, fun _ _ => rfl, ?_⟩
  · exact setPair_keepsRegsBut (pairOf_of_listed (by simp))
  · exact setPair_keepsRegsBut (pairOf_of_listed (by simp))
  · exact setPair_keepsRegsBut (pairOf_of_listed (by simp))
  · exact fun s nn r _ => by cases r <;> rfl

theorem setPair_sp_of_ne (s : State) {p : Reg16} (v : Word) (hne : p ≠ .sp) : (s.setPair p v).sp = s.sp := by
  cases p with
  | sp => exact absurd rfl hne
  | bc | de | hl => rfl

/-- Settles O40: each of the four retires the write of its word to its pair. -/
theorem loadPairImmediateResult : Obligations.LoadPairImmediateResult := by
  intro make op p written hlisted
  have hload := loadsPair_of_listed hlisted
  refine ⟨operandFetchFaults hload.count, fun nn => ⟨hload.encode_eq nn, fun s => ?_⟩⟩
  obtain ⟨t, hnext, ht⟩ := retire_retiredFrom (x := s.setPair p nn) op 3 (setPair_pc s p nn)
    ⟨setPair_status s p nn, setPair_cfg s p nn⟩
  exact ⟨t, (hload.exec_eq nn s).trans hnext, (ht.pair p).trans (setPair_pair_same s p nn),
    ht.f.trans (setPair_f s p nn), fun r hr => (ht.reg r).trans (hload.keepsRegs s nn r hr),
    fun hne => ht.sp.trans (setPair_sp_of_ne s nn hne), fun a => by rw [ht.mem, setPair_mem], ht.retires⟩

/-! ### LD r,d8 (R92) -/

/-- `make` is LD `r`,d8 with opcode `op`. -/
structure LoadsReg (make : Byte → Instr) (op : Byte) (r : Reg8) : Prop where
  count : operandCount op = some 1
  encode_eq : ∀ n, encode (make n) = [op, n]
  exec_eq : ∀ n s, exec (make n) s = retire op 2 (s.setReg r n)

theorem loadsReg_of_listed {make : Byte → Instr} {op : Byte} {r : Reg8}
    (hlisted : (make, op, r) ∈
      [(Instr.ldBd8, (0x06 : Byte), Reg8.b), (.ldCd8, 0x0E, .c), (.ldDd8, 0x16, .d), (.ldEd8, 0x1E, .e),
       (.ldHd8, 0x26, .h), (.ldLd8, 0x2E, .l), (.ldAd8, 0x3E, .a)]) : LoadsReg make op r := by
  simp only [List.mem_cons, Prod.mk.injEq, List.not_mem_nil, or_false] at hlisted
  rcases hlisted with ⟨rfl, rfl, rfl⟩ | ⟨rfl, rfl, rfl⟩ | ⟨rfl, rfl, rfl⟩ | ⟨rfl, rfl, rfl⟩ | ⟨rfl, rfl, rfl⟩ |
    ⟨rfl, rfl, rfl⟩ | ⟨rfl, rfl, rfl⟩ <;>
    exact ⟨rfl, fun _ => rfl, fun _ _ => rfl⟩

/-- R7's constraint on the table: LD A,d8 is not in it. -/
theorem not_implemented_3E_of_legal {cfg : Config} (hlegal : cfg.legal = true) :
    cfg.implemented.contains 0x3E = false := by
  simp only [Config.legal, Config.sourceOpcodes, Bool.and_eq_true, Bool.not_eq_true'] at hlegal
  obtain ⟨⟨⟨-, -, habsent⟩, -⟩, -⟩ := hlegal
  exact habsent

theorem lookupHandler_of_not_implemented {cfg : Config} {op : Byte}
    (habsent : cfg.implemented.contains op = false) : lookupHandler cfg op = none :=
  if_neg (Bool.eq_false_iff.1 habsent)

/-- Settles O41: each of the seven retires the write of its byte to its register; a legal table has no entry
for 0x3E, so the look-up finds no handler. -/
theorem loadRegisterImmediateResult : Obligations.LoadRegisterImmediateResult := by
  refine ⟨fun make op r hlisted => ?_, fun s hlegal hrunning hpc hbyte => ?_⟩
  · have hload := loadsReg_of_listed hlisted
    refine ⟨operandFetchFaults hload.count, fun n => ⟨hload.encode_eq n, fun s => ?_⟩⟩
    obtain ⟨t, hnext, ht⟩ := retire_retiredFrom (x := s.setReg r n) op 2 (setReg_pc s r n)
      ⟨setReg_status s r n, setReg_cfg s r n⟩
    exact ⟨t, (hload.exec_eq n s).trans hnext, (ht.reg r).trans (setReg_reg_same s r n), ht.f.trans (setReg_f s r n),
      fun q hq => (ht.reg q).trans (setReg_reg_ne s n (by simpa using hq)), ht.sp.trans (setReg_sp s r n),
      fun a => by rw [ht.mem, setReg_mem], ht.retires⟩
  · have hnone := lookupHandler_of_not_implemented (not_implemented_3E_of_legal hlegal)
    rw [← hbyte] at hnone ⊢
    exact step_of_lookupHandler_none hrunning hpc hnone

/-! ### Stores through HL (R93, R94) -/

theorem withStoreAtHL_of_allowed {s : State} (v : Byte) (k : State → Host.Outcome State Fault Refusal)
    (ha : forbidden (s.pair .hl) = false) :
    withStoreAtHL s v k = k { s with mem := s.mem.setByte (s.pair .hl).toNat v } := by
  rw [withStoreAtHL, busWrite_of_allowed v ha]

theorem withStoreAtHL_of_forbidden {s : State} (v : Byte) (k : State → Host.Outcome State Fault Refusal)
    (hf : forbidden (s.pair .hl) = true) :
    withStoreAtHL s v k = .fault (.forbiddenMemoryAccess (s.pair .hl) .write) := by
  rw [withStoreAtHL, busWrite_of_forbidden v hf]

/-- Settles O42: the store at HL is retired, or its write faults. -/
theorem storeImmediateAtHLResult : Obligations.StoreImmediateAtHLResult := by
  refine ⟨operandFetchFaults rfl, fun n => ⟨rfl, fun s => ⟨fun ha => ?_, fun hf => ?_⟩⟩⟩
  · obtain ⟨t, hnext, ht⟩ := retire_retiredFrom (s := s)
      (x := { s with mem := s.mem.setByte (s.pair .hl).toNat n }) 0x36 2 rfl ⟨rfl, rfl⟩
    exact ⟨t, (exec_ldAtHLd8_of_allowed n ha).trans hnext,
      fun hwf => by rw [ht.mem, byteAt_setByte_same hwf],
      fun a hne => by rw [ht.mem, byteAt_setByte_ne s.mem n hne],
      ht.f, fun r _ => (ht.reg r).trans (with_mem_reg s _ r), ht.sp, ht.retires⟩
  · exact withStoreAtHL_of_forbidden n (retire 0x36 2) hf

theorem exec_ldAtHLDecA_of_allowed {s : State} (ha : forbidden (s.pair .hl - 1) = false) :
    exec .ldAtHLDecA s = retire 0x32 1
      { s.setPair .hl (s.pair .hl - 1) with mem := s.mem.setByte (s.pair .hl - 1).toNat s.a } := by
  have hhl := setPair_pair_same s .hl (s.pair .hl - 1)
  have hstore := withStoreAtHL_of_allowed s.a (retire 0x32 1) (hhl.symm ▸ ha)
  rwa [hhl] at hstore

theorem exec_ldAtHLDecA_of_forbidden {s : State} (hf : forbidden (s.pair .hl - 1) = true) :
    exec .ldAtHLDecA s = .fault (.forbiddenMemoryAccess (s.pair .hl - 1) .write) := by
  have hhl := setPair_pair_same s .hl (s.pair .hl - 1)
  have hstore := withStoreAtHL_of_forbidden s.a (retire 0x32 1) (hhl.symm ▸ hf)
  rwa [hhl] at hstore

/-- Settles O43: the store at the decremented HL is retired with that HL; where its write faults, the step
takes the fault in the state before it, whose HL is the old one. -/
theorem storeAAtDecrementedHLResult : Obligations.StoreAAtDecrementedHLResult := by
  refine ⟨rfl, fun s => ⟨fun ha => ?_, exec_ldAtHLDecA_of_forbidden, fun hfound hf => ?_⟩⟩
  · obtain ⟨t, hnext, ht⟩ := retire_retiredFrom (s := s)
      (x := { s.setPair .hl (s.pair .hl - 1) with mem := s.mem.setByte (s.pair .hl - 1).toNat s.a })
      0x32 1 rfl ⟨rfl, rfl⟩
    have hkeeps := setPair_keepsRegsBut (pairOf_of_listed (p := .hl) (hi := .h) (lo := .l) (by simp)) s
      (s.pair .hl - 1)
    exact ⟨t, (exec_ldAtHLDecA_of_allowed ha).trans hnext,
      (ht.pair .hl).trans (setPair_pair_same s .hl (s.pair .hl - 1)),
      fun hwf => by rw [ht.mem, byteAt_setByte_same hwf],
      fun a hne => by rw [ht.mem, byteAt_setByte_ne s.mem s.a hne],
      ht.f, fun r hr => ((ht.reg r).trans (with_mem_reg _ _ r)).trans (hkeeps r hr), ht.sp, ht.retires⟩
  · have hstep := (step_of_opcodeFound (i := .ldAtHLDecA) rfl hfound).trans (exec_ldAtHLDecA_of_forbidden hf)
    rw [afterStep_of_fault hstep]
    rfl

end Sys2Proof.Machine
end

section
/-! 8-bit increment, decrement, arithmetic and logic (42_arith8.md R100 to R116): what each instruction
retires with, and where its read, its write or its operand fetch faults. The facts are about the forms of
`formOf`, so that one argument covers INC and DEC, and one covers ADD, SUB, OR and CP. -/

namespace Sys2Proof.Machine

/-! ### What is left alone -/

/-- `x` is `s` but for the registers `written` and the four flags. -/
structure WritesOnly (written : List Reg8) (s x : State) : Prop where
  lowF : KeepsLowF s x
  regs : KeepsRegsBut written s x
  sp : x.sp = s.sp
  mem : x.mem = s.mem
  pc : x.pc = s.pc
  run : KeepsRun s x

theorem writesOnly_refl (s : State) : WritesOnly [] s s :=
  ⟨rfl, fun _ _ => rfl, rfl, rfl, rfl, rfl, rfl⟩

theorem writesOnly_setReg (s : State) (r : Reg8) (v : Byte) : WritesOnly [r] s (s.setReg r v) where
  lowF := congrArg (BitVec.extractLsb' 0 4) (setReg_f s r v)
  regs _ hq := setReg_reg_ne s v (List.ne_of_not_mem_cons hq)
  sp := setReg_sp s r v
  mem := setReg_mem s r v
  pc := setReg_pc s r v
  run := ⟨setReg_status s r v, setReg_cfg s r v⟩

section WritesOnly
variable {written : List Reg8} {s x : State} (hx : WritesOnly written s x)
include hx

theorem WritesOnly.setFlag (fl : Flag) (v : Bool) : WritesOnly written s (x.setFlag fl v) :=
  ⟨(lowF_setFlag x fl v).trans hx.lowF, fun r hr => (setFlag_reg x fl v r).trans (hx.regs r hr), hx.sp, hx.mem,
    hx.pc, hx.run⟩

theorem WritesOnly.setFlags (z n h c : Bool) : WritesOnly written s (x.setFlags z n h c) :=
  (((hx.setFlag .z z).setFlag .n n).setFlag .h h).setFlag .c c

theorem WritesOnly.setStepFlags (r : Step8) (n : Bool) : WritesOnly written s (x.setStepFlags r n) :=
  ((hx.setFlag .z r.zero).setFlag .n n).setFlag .h r.halfCarry

/-- The end of the instruction leaves the same alone. -/
theorem WritesOnly.exists_retire (op : Byte) (length : Nat) :
    ∃ t, retire op length x = .next t ∧ RetiredFrom op length s x t ∧
      KeepsLowF s t ∧ KeepsRegsBut written s t ∧ t.sp = s.sp ∧ KeepsMemory s t := by
  obtain ⟨t, hnext, ht⟩ := retire_retiredFrom op length hx.pc hx.run
  have hlow : KeepsLowF s t := (congrArg (BitVec.extractLsb' 0 4) ht.f).trans hx.lowF
  exact ⟨t, hnext, ht, hlow, fun r hr => (ht.reg r).trans (hx.regs r hr), ht.sp.trans hx.sp,
    fun a => by rw [ht.mem, hx.mem]⟩

end WritesOnly

/-! ### The flags that are left -/

theorem RetiredFrom.flagsAre {op : Byte} {length : Nat} {s x t : State} (ht : RetiredFrom op length s x t)
    {z n h c : Bool} (hx : FlagsAre x z n h c) : FlagsAre t z n h c := by
  simpa only [FlagsAre, State.flag, ht.f] using hx

theorem setFlags_flagsAre (x : State) (z n h c : Bool) : FlagsAre (x.setFlags z n h c) z n h c :=
  ⟨setFlags_flag x z n h c .z, setFlags_flag x z n h c .n, setFlags_flag x z n h c .h,
    setFlags_flag x z n h c .c⟩

theorem setStepFlags_flagsAre (x : State) (r : Step8) (n : Bool) :
    FlagsAre (x.setStepFlags r n) r.zero n r.halfCarry (x.flag .c) :=
  ⟨setStepFlags_flag x r n .z, setStepFlags_flag x r n .n, setStepFlags_flag x r n .h,
    setStepFlags_flag x r n .c⟩

/-! ### The seven register forms of a family -/

/-- Each entry is an instruction of one byte, its opcode, and the register its form is about. -/
def RegisterForms (form : Reg8 → Form) (entries : List (Instr × Byte × Reg8)) : Prop :=
  ∀ e ∈ entries, encode e.1 = [e.2.1] ∧ formOf e.1 = form e.2.2

theorem exec_of_formOf {i : Instr} {op : Byte} {operands : List Byte} {form : Form}
    (hencode : encode i = op :: operands) (hform : formOf i = form) (s : State) : exec i s = form.run op s := by
  have hop : opcodeOf i = op := (List.cons.inj hencode).1
  rw [exec_eq_run, hform, hop]

/-- What holds of the form for every register holds of every listed instruction. -/
theorem RegisterForms.forall_listed {form : Reg8 → Form} {entries : List (Instr × Byte × Reg8)}
    (hforms : RegisterForms form entries) {Post : Byte → Reg8 → State → State → Prop}
    (hrun : ∀ op r s, ∃ t, (form r).run op s = .next t ∧ Post op r s t) (i : Instr) (op : Byte) (r : Reg8)
    (hlisted : (i, op, r) ∈ entries) :
    encode i = [op] ∧ ∀ s, ∃ t, exec i s = .next t ∧ Post op r s t := by
  obtain ⟨hencode, hform⟩ := hforms _ hlisted
  refine ⟨hencode, fun s => ?_⟩
  rw [exec_of_formOf hencode hform]
  exact hrun op r s

/-! ### INC r and DEC r (R100, R102) -/

/-- The flags INC leaves, or DEC when `down`. -/
def IncDecFlags (down : Bool) : Byte → State → State → Prop := if down then DecFlags else IncFlags

/-- The flags of R83 and R84, with the zero and half carry as conditions on the old byte. -/
theorem incDecFlags_of_flagsAre {down : Bool} {n : Byte} {s t : State}
    (hflags : FlagsAre t (incOrDec down n).zero down (incOrDec down n).halfCarry (s.flag .c))
    (hlow : KeepsLowF s t) : IncDecFlags down n s t := by
  cases down with
  | false =>
    have hinc : FlagsAre t (inc8 n).zero false (inc8 n).halfCarry (s.flag .c) := hflags
    rw [inc8_zero, inc8_halfCarry] at hinc
    exact ⟨hinc, hlow⟩
  | true =>
    have hdec : FlagsAre t (dec8 n).zero true (dec8 n).halfCarry (s.flag .c) := hflags
    rw [dec8_zero, dec8_halfCarry] at hdec
    exact ⟨hdec, hlow⟩

theorem run_incDecReg (down : Bool) (op : Byte) (r : Reg8) (s : State) :
    ∃ t, (Form.incDecReg down r).run op s = .next t ∧ t.reg r = (incOrDec down (s.reg r)).result ∧
      IncDecFlags down (s.reg r) s t ∧ KeepsRegsBut [r] s t ∧ t.sp = s.sp ∧ KeepsMemory s t ∧
      Retires op 1 s t := by
  have hwrites := (writesOnly_setReg s r (incOrDec down (s.reg r)).result).setStepFlags
    (incOrDec down (s.reg r)) down
  obtain ⟨t, hnext, ht, hlow, hregs, hsp, hmem⟩ := hwrites.exists_retire op 1
  have hreg : t.reg r = (incOrDec down (s.reg r)).result := by
    rw [ht.reg, setStepFlags_reg, setReg_reg_same]
  have hflags := ht.flagsAre (setStepFlags_flagsAre _ _ _)
  rw [setReg_flag] at hflags
  exact ⟨t, hnext, hreg, incDecFlags_of_flagsAre hflags hlow, hregs, hsp, hmem, ht.retires⟩

/-- Settles O44: the seven INC r are one form, which retires inc8's result and flags. -/
theorem incrementRegisterResult : Obligations.IncrementRegisterResult :=
  RegisterForms.forall_listed (form := .incDecReg false)
    (fun _ hlisted => by fin_cases hlisted <;> exact ⟨rfl, rfl⟩) (run_incDecReg false)

/-- Settles O45: the seven DEC r are one form, which retires dec8's result and flags. -/
theorem decrementRegisterResult : Obligations.DecrementRegisterResult :=
  RegisterForms.forall_listed (form := .incDecReg true)
    (fun _ hlisted => by fin_cases hlisted <;> exact ⟨rfl, rfl⟩) (run_incDecReg true)

/-! ### INC (HL) and DEC (HL) (R101, R103) -/

theorem withByteAtHL_of_readable {s : State} (k : Byte → Host.Outcome State Fault Refusal)
    (hread : Readable s (s.pair .hl)) : withByteAtHL s k = k (s.mem.byteAt (s.pair .hl).toNat) := by
  rw [withByteAtHL, busRead_of_readable hread]

theorem withByteAtHL_of_faulting {s : State} (k : Byte → Host.Outcome State Fault Refusal)
    (hfault : ReadFaults s (s.pair .hl)) :
    withByteAtHL s k = .fault (.forbiddenMemoryAccess (s.pair .hl) .read) := by
  rw [withByteAtHL, busRead_of_faulting hfault.1 hfault.2]

/-- The flag writes and the end of the instruction, from the state `s` with the new memory `m`. -/
theorem exists_retire_setStepFlags (op n : Byte) (down : Bool) (s : State) (m : Memory) :
    ∃ t, retire op 1 (({ s with mem := m } : State).setStepFlags (incOrDec down n) down) = .next t ∧
      KeepsMemory { s with mem := m } t ∧ IncDecFlags down n s t ∧ KeepsRegsBut [] s t ∧ t.sp = s.sp ∧
      Retires op 1 s t := by
  have hwrites := (writesOnly_refl { s with mem := m }).setStepFlags (incOrDec down n) down
  obtain ⟨t, hnext, ht, hlow, hregs, hsp, hmem⟩ := hwrites.exists_retire op 1
  exact ⟨t, hnext, hmem, incDecFlags_of_flagsAre (ht.flagsAre (setStepFlags_flagsAre _ _ _)) hlow,
    fun r hr => (hregs r hr).trans (with_mem_reg s m r), hsp, ht.retires⟩

/-- The byte is read, stored again at the same address, and only then are the flags written; so a forbidden
HL faults at the read when reads fault, and else at the store. -/
theorem updatesByteAtHL_of_formOf {i : Instr} {op : Byte} {down : Bool} (hencode : encode i = [op])
    (hform : formOf i = .incDecAtHL down) :
    UpdatesByteAtHL i op (fun n => (incOrDec down n).result) (IncDecFlags down) := by
  have hexec := exec_of_formOf hencode hform
  refine ⟨fun s ha => ?_, fun s hf hreads => ?_, fun s hf hreads => ?_⟩
  · rw [hexec, Form.run, withByteAtHL_of_readable _ (fun _ => ha), withStoreAtHL_of_allowed _ _ ha]
    obtain ⟨t, hnext, hmem, hrest⟩ := exists_retire_setStepFlags op _ down s _
    exact ⟨t, hnext, fun hwf => (hmem _).trans (byteAt_setByte_same hwf _ _),
      fun a hne => (hmem a).trans (byteAt_setByte_ne _ _ hne), hrest⟩
  · rw [hexec, Form.run, withByteAtHL_of_faulting _ ⟨hreads, hf⟩]
  · have hread : Readable s (s.pair .hl) := fun hfault => by simp [hreads] at hfault
    rw [hexec, Form.run, withByteAtHL_of_readable _ hread, withStoreAtHL_of_forbidden _ _ hf]

/-- Settles O46: the form of INC (HL), with inc8. -/
theorem incrementByteAtHLResult : Obligations.IncrementByteAtHLResult :=
  ⟨rfl, updatesByteAtHL_of_formOf (down := false) rfl rfl⟩

/-- Settles O47: the form of DEC (HL), with dec8. -/
theorem decrementByteAtHLResult : Obligations.DecrementByteAtHLResult :=
  ⟨rfl, updatesByteAtHL_of_formOf (down := true) rfl rfl⟩

/-! ### ADD A, SUB, OR and CP (R104 to R115) -/

/-- The registers the operation writes: CP writes none. -/
def AluOp.written : AluOp → List Reg8
  | .cp => []
  | _ => [.a]

/-- What the operation leaves for a source byte, in the words of its statement. -/
def AluOp.Leaves : AluOp → Byte → State → State → Prop
  | .add => AddedToA
  | .sub => SubtractedFromA
  | .or => OredIntoA
  | .cp => ComparedWithA

theorem AluOp.effect_writesOnly (g : AluOp) (b : Byte) (s : State) : WritesOnly g.written s (g.effect b s) := by
  cases g with
  | add | sub | or => exact (writesOnly_setReg s .a _).setFlags _ _ _ _
  | cp => exact (writesOnly_refl s).setFlags _ _ _ _

theorem add8_result_beq_zero (a b : Byte) :
    ((add8 a b).result == 0) = decide ((a.toNat + b.toNat) % 256 = 0) := by
  rw [← add8_result_toNat]
  exact decide_eq_decide.2 BitVec.toNat_eq

theorem addToA_flagsAre (b : Byte) (s : State) :
    FlagsAre (addToA b s) (decide ((s.a.toNat + b.toNat) % 256 = 0)) false
      (decide (s.a.toNat % 16 + b.toNat % 16 > 15)) (decide (s.a.toNat + b.toNat > 255)) := by
  rw [← add8_result_beq_zero, ← add8_halfCarry]
  exact setFlags_flagsAre _ _ _ _ _

theorem subFromA_flagsAre (b : Byte) (s : State) :
    FlagsAre (subFromA b s) (decide (s.a = b)) true (decide (s.a.toNat % 16 < b.toNat % 16))
      (decide (s.a.toNat < b.toNat)) := by
  rw [← sub8_halfCarry, ← decide_eq_decide.2 (sub8_result_eq_zero s.a b)]
  exact setFlags_flagsAre _ _ _ _ _

theorem orIntoA_flagsAre (b : Byte) (s : State) :
    FlagsAre (orIntoA b s) (decide (s.a = 0 ∧ b = 0)) false false false := by
  rw [← decide_eq_decide.2 (or8_result_eq_zero s.a b)]
  exact setFlags_flagsAre _ _ _ _ _

theorem compareWithA_flagsAre (b : Byte) (s : State) :
    FlagsAre (compareWithA b s) (decide (s.a = b)) true (decide (s.a.toNat % 16 < b.toNat % 16))
      (decide (s.a.toNat < b.toNat)) := by
  rw [← sub8_halfCarry, compareWithA, cp8_eq]
  exact setFlags_flagsAre _ _ _ _ _

/-- The operation retires with the A, the flags and the frame its statement names. -/
theorem AluOp.exists_retire (g : AluOp) (op : Byte) (length : Nat) (b : Byte) (s : State) :
    ∃ t, retire op length (g.effect b s) = .next t ∧ g.Leaves b s t ∧ Retires op length s t := by
  obtain ⟨t, hnext, ht, hkeeps⟩ := (g.effect_writesOnly b s).exists_retire op length
  refine ⟨t, hnext, ?_, ht.retires⟩
  cases g with
  | add => exact ⟨ht.reg .a, ht.flagsAre (addToA_flagsAre b s), hkeeps⟩
  | sub => exact ⟨ht.reg .a, ht.flagsAre (subFromA_flagsAre b s), hkeeps⟩
  | or =>
    have ha : t.a = (or8 s.a b).result := ht.reg .a
    exact ⟨fun j _ => by rw [ha, or8_result_getLsbD], ht.flagsAre (orIntoA_flagsAre b s), hkeeps⟩
  | cp => exact ⟨ht.flagsAre (compareWithA_flagsAre b s), hkeeps⟩

/-- The (HL) form of an operation: it faults where its read does. -/
theorem AluOp.readsByteAtHL (g : AluOp) {i : Instr} {op : Byte} (hencode : encode i = [op])
    (hform : formOf i = .alu g .atHL) : ReadsByteAtHL i op g.Leaves := by
  have hexec := exec_of_formOf hencode hform
  refine ⟨fun s hread => ?_, fun s hfault => ?_⟩
  · rw [hexec, Form.run, withSource, withByteAtHL_of_readable _ hread]
    exact g.exists_retire op 1 _ s
  · rw [hexec, Form.run, withSource, withByteAtHL_of_faulting _ hfault]

/-- The d8 form of an operation. -/
theorem AluOp.exists_exec_imm (g : AluOp) {i : Instr} {op n : Byte} (hencode : encode i = [op, n])
    (hform : formOf i = .alu g (.imm n)) (s : State) :
    ∃ t, exec i s = .next t ∧ g.Leaves n s t ∧ Retires op 2 s t := by
  rw [exec_of_formOf hencode hform]
  exact g.exists_retire op 2 n s

/-- The register forms of an operation. -/
theorem AluOp.exists_exec_listed (g : AluOp) {entries : List (Instr × Byte × Reg8)}
    (hforms : RegisterForms (fun r => .alu g (.reg r)) entries) (i : Instr) (op : Byte) (r : Reg8)
    (hlisted : (i, op, r) ∈ entries) :
    encode i = [op] ∧ ∀ s, ∃ t, exec i s = .next t ∧ g.Leaves (s.reg r) s t ∧ Retires op 1 s t :=
  hforms.forall_listed (fun op r s => g.exists_retire op 1 (s.reg r) s) i op r hlisted

/-- Settles O48: the nine forms are ADD's with its three sources. -/
theorem addToAResult : Obligations.AddToAResult :=
  ⟨AluOp.add.exists_exec_listed fun _ hlisted => by fin_cases hlisted <;> exact ⟨rfl, rfl⟩,
    rfl, AluOp.add.readsByteAtHL rfl rfl, operandFetchFaults rfl,
    fun _ => ⟨rfl, AluOp.add.exists_exec_imm rfl rfl⟩⟩

/-- Settles O49: the nine forms are SUB's with its three sources. -/
theorem subtractFromAResult : Obligations.SubtractFromAResult :=
  ⟨AluOp.sub.exists_exec_listed fun _ hlisted => by fin_cases hlisted <;> exact ⟨rfl, rfl⟩,
    rfl, AluOp.sub.readsByteAtHL rfl rfl, operandFetchFaults rfl,
    fun _ => ⟨rfl, AluOp.sub.exists_exec_imm rfl rfl⟩⟩

/-- Settles O50: the nine forms are OR's with its three sources. -/
theorem orIntoAResult : Obligations.OrIntoAResult :=
  ⟨AluOp.or.exists_exec_listed fun _ hlisted => by fin_cases hlisted <;> exact ⟨rfl, rfl⟩,
    rfl, AluOp.or.readsByteAtHL rfl rfl, operandFetchFaults rfl,
    fun _ => ⟨rfl, AluOp.or.exists_exec_imm rfl rfl⟩⟩

/-- Settles O51: the nine forms are CP's with its three sources. -/
theorem compareWithAResult : Obligations.CompareWithAResult :=
  ⟨AluOp.cp.exists_exec_listed fun _ hlisted => by fin_cases hlisted <;> exact ⟨rfl, rfl⟩,
    rfl, AluOp.cp.readsByteAtHL rfl rfl, operandFetchFaults rfl,
    fun _ => ⟨rfl, AluOp.cp.exists_exec_imm rfl rfl⟩⟩

/-! ### XOR A (R116) -/

/-- Settles O52: XOR A retires the write of 0 to A and of fixed flags. -/
theorem xorAResult : Obligations.XorAResult := by
  refine ⟨rfl, fun s => ?_⟩
  have hwrites := (writesOnly_setReg s .a 0x00).setFlags true false false false
  obtain ⟨t, hnext, ht, hlow, hregs, hsp, hmem⟩ := hwrites.exists_retire 0xAF 1
  exact ⟨t, hnext, ht.reg .a, ht.flagsAre (setFlags_flagsAre _ _ _ _ _), hlow, hregs, hsp, hmem, ht.retires⟩

end Sys2Proof.Machine
end

section
/-! 16-bit increment, decrement and addition (43_arith16.md R120 to R122): the write of a pair that each
instruction retires. No instruction of this family reads or writes memory, so each completes from every state. -/

namespace Sys2Proof.Machine

/-! ### The write of a pair -/

/-- The 8-bit registers a write to the pair goes to: SP has none. -/
def halvesOf : Reg16 → List Reg8
  | .bc => [.b, .c]
  | .de => [.d, .e]
  | .hl => [.h, .l]
  | .sp => []

theorem setPair_keepsRegsBut_halves (s : State) (p : Reg16) (v : Word) :
    KeepsRegsBut (halvesOf p) s (s.setPair p v) := by
  cases p with
  | bc => exact setPair_keepsRegsBut (hi := .b) (lo := .c) (pairOf_of_listed (by simp)) s v
  | de => exact setPair_keepsRegsBut (hi := .d) (lo := .e) (pairOf_of_listed (by simp)) s v
  | hl => exact setPair_keepsRegsBut (hi := .h) (lo := .l) (pairOf_of_listed (by simp)) s v
  | sp => exact fun r _ => by cases r <;> rfl

theorem writesOnly_setPair_of_ne_sp (s : State) {p : Reg16} (v : Word) (hne : p ≠ .sp) :
    WritesOnly (halvesOf p) s (s.setPair p v) where
  lowF := congrArg (BitVec.extractLsb' 0 4) (setPair_f s p v)
  regs := setPair_keepsRegsBut_halves s p v
  sp := setPair_sp_of_ne s v hne
  mem := setPair_mem s p v
  pc := setPair_pc s p v
  run := ⟨setPair_status s p v, setPair_cfg s p v⟩

/-! ### INC rr and DEC rr (R120, R121) -/

/-- The end of an instruction that only writes a pair: F is kept whole. -/
theorem exists_retire_setPair (op : Byte) (length : Nat) (p : Reg16) (v : Word) (s : State) :
    ∃ t, retire op length (s.setPair p v) = .next t ∧ t.pair p = v ∧ t.f = s.f ∧
      KeepsRegsBut (halvesOf p) s t ∧ (p ≠ .sp → t.sp = s.sp) ∧ KeepsMemory s t ∧ Retires op length s t := by
  obtain ⟨t, hnext, ht⟩ := retire_retiredFrom (x := s.setPair p v) op length (setPair_pc s p v)
    ⟨setPair_status s p v, setPair_cfg s p v⟩
  exact ⟨t, hnext, (ht.pair p).trans (setPair_pair_same s p v), ht.f.trans (setPair_f s p v),
    fun r hr => (ht.reg r).trans (setPair_keepsRegsBut_halves s p v r hr),
    fun hne => ht.sp.trans (setPair_sp_of_ne s v hne), fun a => by rw [ht.mem, setPair_mem], ht.retires⟩

/-- Each entry is an instruction of one byte that applies `update` to a pair, its opcode, that pair and the
pair's two registers. -/
def PairForms (update : Word → Word) (entries : List (Instr × Byte × Reg16 × List Reg8)) : Prop :=
  ∀ e ∈ entries, encode e.1 = [e.2.1] ∧ formOf e.1 = .pair 1 e.2.2.1 update ∧ e.2.2.2 = halvesOf e.2.2.1

/-- What is said of the pair's new value holds of every listed instruction when it holds of every word. -/
theorem PairForms.forall_listed {update : Word → Word} {entries : List (Instr × Byte × Reg16 × List Reg8)}
    (hforms : PairForms update entries) {added : Nat}
    (hupdate : ∀ w, (update w).toNat = (w.toNat + added) % 65536) (i : Instr) (op : Byte) (p : Reg16)
    (written : List Reg8) (hlisted : (i, op, p, written) ∈ entries) :
    encode i = [op] ∧
    ∀ s : State, ∃ t, exec i s = .next t ∧ (t.pair p).toNat = ((s.pair p).toNat + added) % 65536 ∧
      t.f = s.f ∧ KeepsRegsBut written s t ∧ (p ≠ .sp → t.sp = s.sp) ∧ KeepsMemory s t ∧
      Retires op 1 s t := by
  obtain ⟨hencode, hform, rfl⟩ : encode i = [op] ∧ formOf i = .pair 1 p update ∧ written = halvesOf p :=
    hforms _ hlisted
  refine ⟨hencode, fun s => ?_⟩
  obtain ⟨t, hnext, hpair, hrest⟩ := exists_retire_setPair op 1 p (update (s.pair p)) s
  have hvalue : (t.pair p).toNat = ((s.pair p).toNat + added) % 65536 := by rw [hpair, hupdate]
  exact ⟨t, (exec_of_formOf hencode hform s).trans hnext, hvalue, hrest⟩

/-- Subtracting 1 is adding 65535 modulo 2^16. -/
theorem toNat_sub_one (w : Word) : (w - 1).toNat = (w.toNat + 65535) % 65536 := by
  rw [BitVec.toNat_sub, Nat.add_comm]
  rfl

/-- Settles O53: each family is one form, the write of the pair plus or minus 1. -/
theorem incrementAndDecrementPairResult : Obligations.IncrementAndDecrementPairResult :=
  ⟨PairForms.forall_listed (update := (· + 1))
      (fun _ hlisted => by fin_cases hlisted <;> exact ⟨rfl, rfl, rfl⟩) fun w => BitVec.toNat_add w 1,
    PairForms.forall_listed (update := (· - 1))
      (fun _ hlisted => by fin_cases hlisted <;> exact ⟨rfl, rfl, rfl⟩) toNat_sub_one⟩

/-! ### ADD HL,rr (R122) -/

/-- Writes to N, H and C leave Z. -/
theorem setFlag_n_h_c_flagsAre (x : State) (n h c : Bool) :
    FlagsAre (((x.setFlag .n n).setFlag .h h).setFlag .c c) (x.flag .z) n h c := by
  simp [FlagsAre, flag_setFlag]

/-- The end of an instruction that writes HL, N, H and C: Z is kept. -/
theorem exists_retire_setHL_n_h_c (op : Byte) (r : Alu16) (s : State) :
    ∃ t, retire op 1 ((((s.setPair .hl r.result).setFlag .n false).setFlag .h r.halfCarry).setFlag
        .c r.carry) = .next t ∧
      t.pair .hl = r.result ∧ FlagsAre t (s.flag .z) false r.halfCarry r.carry ∧
      KeepsLowF s t ∧ KeepsRegsBut [.h, .l] s t ∧ t.sp = s.sp ∧ KeepsMemory s t ∧ Retires op 1 s t := by
  have hpair : WritesOnly [.h, .l] s (s.setPair .hl r.result) :=
    writesOnly_setPair_of_ne_sp s (p := .hl) _ (by decide)
  have hwrites := ((hpair.setFlag .n false).setFlag .h r.halfCarry).setFlag .c r.carry
  obtain ⟨t, hnext, ht, hlow, hregs, hsp, hmem⟩ := hwrites.exists_retire op 1
  have hsum : t.pair .hl = r.result := by
    rw [ht.pair, setFlag_pair, setFlag_pair, setFlag_pair, setPair_pair_same]
  have hflags := ht.flagsAre (setFlag_n_h_c_flagsAre _ _ _ _)
  rw [setPair_flag] at hflags
  exact ⟨t, hnext, hsum, hflags, hlow, hregs, hsp, hmem, ht.retires⟩

/-- The half carry of the sum, with the mask of C1 as the remainder by 4096. -/
theorem exists_addPairToHL (op : Byte) (p : Reg16) (s : State) :
    ∃ t, addPairToHL op p s = .next t ∧ t.pair .hl = s.pair .hl + s.pair p ∧
      FlagsAre t (s.flag .z) false
        (decide ((s.pair .hl).toNat % 4096 + (s.pair p).toNat % 4096 > 4095))
        (decide ((s.pair .hl).toNat + (s.pair p).toNat > 65535)) ∧
      KeepsLowF s t ∧ KeepsRegsBut [.h, .l] s t ∧ t.sp = s.sp ∧ KeepsMemory s t ∧ Retires op 1 s t := by
  rw [← add16ToPair_halfCarry]
  exact exists_retire_setHL_n_h_c op (add16ToPair (s.pair .hl) (s.pair p)) s

/-- Settles O54: the four are one form. -/
theorem addPairToHLResult : Obligations.AddPairToHLResult := by
  intro i op p hlisted
  obtain ⟨hencode, hform⟩ : encode i = [op] ∧ formOf i = .addHL p := by
    simp only [List.mem_cons, Prod.mk.injEq, List.not_mem_nil, or_false] at hlisted
    rcases hlisted with ⟨rfl, rfl, rfl⟩ | ⟨rfl, rfl, rfl⟩ | ⟨rfl, rfl, rfl⟩ | ⟨rfl, rfl, rfl⟩ <;>
      exact ⟨rfl, rfl⟩
  refine ⟨hencode, fun s => ?_⟩
  rw [exec_of_formOf hencode hform]
  exact exists_addPairToHL op p s

end Sys2Proof.Machine
end

section
/-! Accumulator rotates (44_rotate.md R130, R131): the bits of the rotated A, and what both instructions
retire with. -/

namespace Sys2Proof.Machine

/-! ### The rotated A, bit by bit -/

/-- The two shifts of R130 are the library's rotation by one. -/
theorem shiftLeft_or_shiftRight_eq_rotateLeft (a : Byte) : (a <<< 1) ||| (a >>> 7) = a.rotateLeft 1 := rfl

/-- The bit that leaves at the top comes in at the bottom (R130). -/
theorem rotateLeft_one_getLsbD_zero (a : Byte) : (a.rotateLeft 1).getLsbD 0 = a.getLsbD 7 :=
  BitVec.getLsbD_rotateLeft

/-- Every other bit moves up by one (R130). -/
theorem rotateLeft_one_getLsbD_succ (a : Byte) {j : Nat} (hj : j < 7) :
    (a.rotateLeft 1).getLsbD (j + 1) = a.getLsbD j := by
  have hin : j + 1 < 8 := Nat.succ_lt_succ hj
  rw [BitVec.getLsbD_rotateLeft]
  simp [hin]

theorem carryInBit7_getLsbD_seven (cin : Bool) : (carryInBit7 cin).getLsbD 7 = cin := by
  cases cin <;> rfl

theorem carryInBit7_getLsbD_of_lt (cin : Bool) {j : Nat} (hj : j < 7) : (carryInBit7 cin).getLsbD j = false := by
  cases cin with
  | false => exact BitVec.getLsbD_zero
  | true => exact (BitVec.getLsbD_twoPow 7 j).trans (by simp [Nat.ne_of_gt hj])

/-- The old C comes in at the top (R131). -/
theorem carryInBit7_or_shiftRight_getLsbD_seven (a : Byte) (cin : Bool) :
    (carryInBit7 cin ||| (a >>> 1)).getLsbD 7 = cin := by
  have hout : (a >>> 1).getLsbD 7 = false := by
    rw [BitVec.getLsbD_ushiftRight]
    exact BitVec.getLsbD_of_ge a _ (by decide)
  rw [BitVec.getLsbD_or, carryInBit7_getLsbD_seven, hout, Bool.or_false]

/-- Every other bit moves down by one (R131). -/
theorem carryInBit7_or_shiftRight_getLsbD_of_lt (a : Byte) (cin : Bool) {j : Nat} (hj : j < 7) :
    (carryInBit7 cin ||| (a >>> 1)).getLsbD j = a.getLsbD (j + 1) := by
  rw [BitVec.getLsbD_or, carryInBit7_getLsbD_of_lt cin hj, Bool.false_or, BitVec.getLsbD_ushiftRight,
    Nat.add_comm]

/-! ### The two instructions -/

/-- A form that writes A and all four flags retires with that A, those flags and everything else as it was. -/
theorem run_accumulator (newA : Byte → Bool → Byte) (z : Bool) (newC : Byte → Bool) (op : Byte) (s : State) :
    ∃ t, (Form.accumulator newA z newC).run op s = .next t ∧ t.a = newA s.a (s.flag .c) ∧
      FlagsAre t z false false (newC s.a) ∧ KeepsLowF s t ∧ KeepsRegsBut [.a] s t ∧ t.sp = s.sp ∧
      KeepsMemory s t ∧ Retires op 1 s t := by
  have hwrites := (writesOnly_setReg s .a (newA s.a (s.flag .c))).setFlags z false false (newC s.a)
  obtain ⟨t, hnext, ht, hlow, hregs, hsp, hmem⟩ := hwrites.exists_retire op 1
  exact ⟨t, hnext, ht.reg .a, ht.flagsAre (setFlags_flagsAre _ _ _ _ _), hlow, hregs, hsp, hmem, ht.retires⟩

/-- Settles O55: both are the accumulator form, and what is left is the bits of the new A. -/
theorem rotateAccumulatorResult : Obligations.RotateAccumulatorResult := by
  refine ⟨rfl, rfl, fun s => ?rlca, fun s => ?rra⟩
  case rlca =>
    obtain ⟨t, hnext, ha, hrest⟩ := run_accumulator (fun a _ => (a <<< 1) ||| (a >>> 7)) false
      (fun a => a.getLsbD 7) 0x07 s
    rw [shiftLeft_or_shiftRight_eq_rotateLeft] at ha
    exact ⟨t, (exec_eq_run .rlca s).trans hnext, by rw [ha, rotateLeft_one_getLsbD_zero],
      fun j hj => by rw [ha, rotateLeft_one_getLsbD_succ _ hj], hrest⟩
  case rra =>
    obtain ⟨t, hnext, ha, hrest⟩ := run_accumulator (fun a cin => carryInBit7 cin ||| (a >>> 1)) false
      (fun a => a.getLsbD 0) 0x1F s
    exact ⟨t, (exec_eq_run .rra s).trans hnext, by rw [ha, carryInBit7_or_shiftRight_getLsbD_seven],
      fun j hj => by rw [ha, carryInBit7_or_shiftRight_getLsbD_of_lt _ _ hj], hrest⟩

end Sys2Proof.Machine
end

section
/-! Jumps (45_control.md R139 to R143): where each form leaves pc and which count it returns. A jump completes
from every state; only its operand fetch can fault. -/

namespace Sys2Proof.Machine

/-! ### The end of a jump -/

/-- Only pc and the returned count are written. -/
theorem exists_returnCycles_jumpsTo (n : Nat) (target : Word) (s : State) :
    ∃ t, returnCycles n { s with pc := target } = .next t ∧ JumpsTo target n s t ∧ KeepsRegsAndMemory s t :=
  ⟨_, rfl, ⟨rfl, rfl, rfl, rfl⟩, rfl, fun r _ => by cases r <;> rfl, rfl, fun _ => rfl⟩

theorem exists_run_jump (target : Word → Word) (op : Byte) (s : State) :
    ∃ t, (Form.jump target).run op s = .next t ∧ JumpsTo (target s.pc) (s.cfg.cycles op) s t ∧
      KeepsRegsAndMemory s t :=
  exists_returnCycles_jumpsTo _ _ s

/-- The target of a relative jump, in numbers (R140, R141). -/
theorem addSigned_pc_add_two_toNat (pc : Word) (e : Byte) :
    ((addSigned (pc + 2) e).toNat : Int) = ((pc.toNat : Int) + 2 + e.toInt) % 65536 := by
  have htwo : (2 : Word).toNat = 2 := rfl
  rw [addSigned_toNat, BitVec.toNat_add, htwo]
  omega

/-- A relative jump's pc in numbers, for any outcome that jumps to its target. -/
theorem exists_relative_of_jumpsTo {out : Host.Outcome State Fault Refusal} {e : Byte} {n : Nat} {s : State}
    (hjump : ∃ t, out = .next t ∧ JumpsTo (addSigned (s.pc + 2) e) n s t ∧ KeepsRegsAndMemory s t) :
    ∃ t, out = .next t ∧ ((t.pc.toNat : Int) = ((s.pc.toNat : Int) + 2 + e.toInt) % 65536) ∧
      JumpsTo t.pc n s t ∧ KeepsRegsAndMemory s t := by
  obtain ⟨t, hnext, ⟨hpc, hrest⟩, hkeeps⟩ := hjump
  exact ⟨t, hnext, by rw [hpc, addSigned_pc_add_two_toNat], ⟨rfl, hrest⟩, hkeeps⟩

/-! ### JR r8 and JP a16 (R140, R142) -/

/-- Settles O56: both are the jump form, to a target computed from pc and to the operand. -/
theorem unconditionalJumpResult : Obligations.UnconditionalJumpResult :=
  ⟨operandFetchFaults rfl, operandFetchFaults rfl,
    fun e => ⟨rfl, fun s => exists_relative_of_jumpsTo
      (exists_run_jump (fun pc => addSigned (pc + BitVec.ofNat 16 2) e) 0x18 s)⟩,
    fun nn => ⟨rfl, fun s => exists_run_jump (fun _ => nn) 0xC3 s⟩⟩

/-! ### The conditions (R139) -/

/-- The flag a condition reads. -/
def testedFlag : Cond → Flag
  | .nz | .z => .z
  | .nc | .c => .c

/-- The value of that flag under which the condition holds. -/
def wantedValue : Cond → Bool
  | .nz | .nc => false
  | .z | .c => true

theorem condition_eq_true_iff (s : State) (cc : Cond) :
    s.condition cc = true ↔ s.flag (testedFlag cc) = wantedValue cc := by
  cases cc with
  | nz | nc => exact iff_of_eq (Bool.not_eq_true' _)
  | z | c => exact Iff.rfl

/-! ### JR cc,r8 and JP cc,a16 (R141, R143) -/

/-- `make` is the conditional jump on `cc` with opcode `op`, whose operand `x` is encoded in the `count` bytes
`operand x` and gives the target `target x`. -/
structure JumpsIf {α : Type} (count : Nat) (operand : α → List Byte) (target : α → Word → Word)
    (make : α → Instr) (op : Byte) (cc : Cond) : Prop where
  count_eq : operandCount op = some count
  encode_eq : ∀ x, encode (make x) = op :: operand x
  form_eq : ∀ x, formOf (make x) = .jumpIf cc (count + 1) (target x)

/-- Both outcomes: pc is past the instruction in each, and the taken one goes on to its target from there. -/
theorem JumpsIf.exec_outcomes {α : Type} {count : Nat} {operand : α → List Byte} {target : α → Word → Word}
    {make : α → Instr} {op : Byte} {cc : Cond} (hjump : JumpsIf count operand target make op cc) (x : α)
    (s : State) :
    (s.flag (testedFlag cc) = wantedValue cc → ∃ t, exec (make x) s = .next t ∧
      JumpsTo (target x (s.pc + BitVec.ofNat 16 (count + 1))) (s.cfg.branchCycles op true) s t ∧
      KeepsRegsAndMemory s t) ∧
    (s.flag (testedFlag cc) ≠ wantedValue cc → ∃ t, exec (make x) s = .next t ∧
      JumpsTo (s.pc + BitVec.ofNat 16 (count + 1)) (s.cfg.branchCycles op false) s t ∧
      KeepsRegsAndMemory s t) := by
  rw [exec_of_formOf (hjump.encode_eq x) (hjump.form_eq x), Form.run]
  refine ⟨fun hflag => ?_, fun hflag => ?_⟩
  · rw [(condition_eq_true_iff s cc).2 hflag]
    exact exists_returnCycles_jumpsTo _ _ s
  · rw [Bool.eq_false_iff.2 (mt (condition_eq_true_iff s cc).1 hflag)]
    exact exists_returnCycles_jumpsTo _ _ s

theorem jumpsIf_of_listed_relative {make : Byte → Instr} {op : Byte} {fl : Flag} {want : Bool}
    (hlisted : (make, op, fl, want) ∈
      [(Instr.jrNZ, (0x20 : Byte), Flag.z, false), (.jrZ, 0x28, .z, true), (.jrNC, 0x30, .c, false),
       (.jrC, 0x38, .c, true)]) :
    ∃ cc : Cond, JumpsIf 1 (fun e => [e]) (fun e pc => addSigned pc e) make op cc ∧ testedFlag cc = fl ∧
      wantedValue cc = want := by
  simp only [List.mem_cons, Prod.mk.injEq, List.not_mem_nil, or_false] at hlisted
  rcases hlisted with ⟨rfl, rfl, rfl, rfl⟩ | ⟨rfl, rfl, rfl, rfl⟩ | ⟨rfl, rfl, rfl, rfl⟩ | ⟨rfl, rfl, rfl, rfl⟩ <;>
    exact ⟨_, ⟨rfl, fun _ => rfl, fun _ => rfl⟩, rfl, rfl⟩

theorem jumpsIf_of_listed_absolute {make : Word → Instr} {op : Byte} {fl : Flag} {want : Bool}
    (hlisted : (make, op, fl, want) ∈
      [(Instr.jpNZ, (0xC2 : Byte), Flag.z, false), (.jpZ, 0xCA, .z, true), (.jpNC, 0xD2, .c, false),
       (.jpC, 0xDA, .c, true)]) :
    ∃ cc : Cond, JumpsIf 2 wordOperand (fun nn _ => nn) make op cc ∧ testedFlag cc = fl ∧ wantedValue cc = want := by
  simp only [List.mem_cons, Prod.mk.injEq, List.not_mem_nil, or_false] at hlisted
  rcases hlisted with ⟨rfl, rfl, rfl, rfl⟩ | ⟨rfl, rfl, rfl, rfl⟩ | ⟨rfl, rfl, rfl, rfl⟩ | ⟨rfl, rfl, rfl, rfl⟩ <;>
    exact ⟨_, ⟨rfl, fun _ => rfl, fun _ => rfl⟩, rfl, rfl⟩

/-- Settles O57: each is the conditional form on its condition; a taken one's pc is read in numbers. -/
theorem conditionalRelativeJumpResult : Obligations.ConditionalRelativeJumpResult := by
  intro make op fl want hlisted
  obtain ⟨cc, hjump, rfl, rfl⟩ := jumpsIf_of_listed_relative hlisted
  refine ⟨operandFetchFaults hjump.count_eq, fun e => ⟨hjump.encode_eq e, fun s => ?_⟩⟩
  obtain ⟨htaken, hnotTaken⟩ := hjump.exec_outcomes e s
  exact ⟨fun hflag => exists_relative_of_jumpsTo (htaken hflag), hnotTaken⟩

/-- Settles O58: each is the conditional form on its condition. -/
theorem conditionalAbsoluteJumpResult : Obligations.ConditionalAbsoluteJumpResult := by
  intro make op fl want hlisted
  obtain ⟨cc, hjump, rfl, rfl⟩ := jumpsIf_of_listed_absolute hlisted
  exact ⟨operandFetchFaults hjump.count_eq, fun nn => ⟨hjump.encode_eq nn, hjump.exec_outcomes nn⟩⟩

end Sys2Proof.Machine
end

section
/-! Faults of a step and of the loader (60_exceptions.md R150 to R156, R167): which fault is reported, what it
says of the state before it, and what it leaves. -/

namespace Sys2Proof.Machine

theorem step_of_fetchInstr_error {s : State} {f : Fault} (hs : s.status = .running)
    (hfetch : fetchInstr s = .error f) : step s = .fault f := by
  rw [step_of_running hs, hfetch]

/-- The opcode is read before it is looked up, so the byte at pc does not matter (R156). -/
theorem fetchInstr_of_pc_faulting {s : State} (hfault : ReadFaults s s.pc) :
    fetchInstr s = .error (.forbiddenMemoryAccess s.pc .read) := by
  rcases fetch8_cases s with ⟨-, hr⟩ | ⟨hfetch, -⟩
  · exact absurd hfault (readable_not_faulting hr)
  · simp only [fetchInstr, hfetch]

/-- Settles O27: the opcode fetch is the first thing a step does, and the operand fetches follow the look-up. -/
theorem fetchFaultsComeFirst : Obligations.FetchFaultsComeFirst :=
  ⟨fun _ hrunning hfault => step_of_fetchInstr_error hrunning (fetchInstr_of_pc_faulting hfault),
    fun _ _ hcount => operandFetchFaults hcount⟩

/-- A fetch that fails, from what a fetch can answer: an opcode outside the table, or a byte it cannot read. -/
theorem fetchInstr_error_cases {s : State} {f : Fault} (hfetch : fetchInstr s = .error f) :
    (f = .unsupportedOpcode (s.mem.byteAt s.pc.toNat) s.pc ∧ Readable s s.pc ∧
      (s.cfg.implemented.contains (s.mem.byteAt s.pc.toNat) = false ∨
        specifiedSet.contains (s.mem.byteAt s.pc.toNat) = false)) ∨
    (∃ a, f = .forbiddenMemoryAccess a .read ∧ ReadFaults s a ∧
      (a = s.pc ∨ a = s.pc + 1 ∨ a = s.pc + 2)) := by
  rcases fetchInstr_cases s with ⟨i, hok, -⟩ | ⟨herror, hout⟩ | ⟨a, herror, ha⟩
  · cases hok.symm.trans hfetch
  · cases herror.symm.trans hfetch
    exact .inl ⟨rfl, hout⟩
  · cases herror.symm.trans hfetch
    exact .inr ⟨a, rfl, ha⟩

/-- Settles O30: the fault is the fetch's, at pc or one of the two bytes after it, or the instruction's, at HL
or HL-1. -/
theorem stepFaultsAreAccurate : Obligations.StepFaultsAreAccurate := by
  intro s f hfault
  rcases step_fault hfault with ⟨-, hfetch | ⟨i, -, hexec⟩⟩
  · rcases fetchInstr_error_cases hfetch with hopcode | ⟨a, hf, hreadFaults, hpc | hpc1 | hpc2⟩
    · exact .inl hopcode
    · exact .inr (.inl ⟨a, hf, hreadFaults, .inl hpc⟩)
    · exact .inr (.inl ⟨a, hf, hreadFaults, .inr (.inl hpc1)⟩)
    · exact .inr (.inl ⟨a, hf, hreadFaults, .inr (.inr (.inl hpc2))⟩)
  · rcases exec_fault_cases hexec with ⟨hf, hreadFaults⟩ | ⟨hf, hforbidden⟩ | ⟨hf, hforbidden⟩
    · exact .inr (.inl ⟨_, hf, hreadFaults, .inr (.inr (.inr rfl))⟩)
    · exact .inr (.inr ⟨_, hf, hforbidden, .inl rfl⟩)
    · exact .inr (.inr ⟨_, hf, hforbidden, .inr rfl⟩)

theorem launch_of_type_nonzero (cfg : Config) {image : List Byte} (hfit : image.length ≤ 0x10000)
    (htype : image.getD 0x0147 0x00 ≠ 0x00) : launch cfg image = .error .unsupportedCartridge :=
  if_neg ((byteAt_imageMemory hfit _).trans_ne htype)

/-- Settles O3: no fault that is true of a step's state is UnsupportedCartridge. -/
theorem onlyTheLoaderRejectsCartridges : Obligations.OnlyTheLoaderRejectsCartridges := by
  refine ⟨fun cfg image hfit htype => launch_of_type_nonzero cfg hfit htype, fun s hfault => ?_⟩
  rcases stepFaultsAreAccurate s _ hfault with ⟨hopcode, -⟩ | ⟨a, hread, -⟩ | ⟨a, hwrite, -⟩
  · cases hopcode
  · cases hread
  · cases hwrite

/-- Settles O25: the look-up finds no handler, and taking the fault writes nothing else. -/
theorem opcodeOutsideTheTableFaults : Obligations.OpcodeOutsideTheTableFaults := by
  intro s hrunning hpc habsent
  have hfault := step_of_lookupHandler_none hrunning hpc (lookupHandler_of_not_implemented habsent)
  refine ⟨hfault, ?_⟩
  rw [afterStep_of_fault hfault]
  rfl

/-- Settles O28: the machine afterwards is `State.takeFault` of the one before. -/
theorem faultingStepRestoresEverything : Obligations.FaultingStepRestoresEverything := by
  intro s f hfault
  rw [afterStep_of_fault hfault]
  exact ⟨stepReturn_of_fault hfault, takeFault_status s f, rfl⟩

/-- Settles O31: the fetch faults, or the instruction it answers completes or faults. -/
theorem everyStepCompletesOrFaults : Obligations.EveryStepCompletesOrFaults := by
  intro s hrunning
  cases hfetch : fetchInstr s with
  | error f => exact .inr ⟨f, step_of_fetchInstr_error hrunning hfetch⟩
  | ok i =>
    rw [step_of_running hrunning, hfetch]
    rcases exec_cases i s with ⟨t, hnext, -⟩ | ⟨f, hfault, -⟩
    · exact .inl ⟨t, hnext⟩
    · exact .inr ⟨f, hfault⟩

end Sys2Proof.Machine
end
